-- ==== Sys2Proof/Word.lean ====
section
/-! DEFINITION. The words of the hub: bytes, control-window words, image and flash addresses. -/

namespace Sys2Proof

/-- A byte of the image, of a flash transaction or of the control window's offsets. -/
abbrev Byte := BitVec 8

/-- A register of the control window: one 32-bit word (spec 10, section 10.1). -/
abbrev Word := BitVec 32

/-- An address a port can present in its image window, 0 to 1FFFFFFh (spec 01, section 1.2). -/
abbrev ImageAddress := BitVec 25

/-- An address on a flash channel: 24 bits (R7, R103). -/
abbrev FlashAddress := BitVec 24

end Sys2Proof
end

