-- ==== Sys2Proof/Syntax.lean ====
section
/-! DEFINITION. The commands and events the hub takes: one constructor per row of spec/opcode_table.json. -/

namespace Sys2Proof

/-- The four Client Ports, lower number first. -/
inductive Port where
  | cp0 | cp1 | cp2 | cp3
deriving DecidableEq, Repr

/-- The two serial flash channels. -/
inductive Channel where
  | a | b
deriving DecidableEq, Repr

/-- One step of the hub (spec/opcode_table.json). The written word of a command is its raw operand; R167 says how it is
read, and for several commands that it is ignored. -/
inductive Instr where
  /-- IMAGE_READ (R42): a read of `beats` 32-bit words in the port's image window. -/
  | imageRead (p : Port) (address : ImageAddress) (beats : Nat)
  /-- IMAGE_WRITE (R130): a write in the port's image window, as the accesses it is made of and the bytes of each, in order
of rising address from `address` (log entry 22); a single access is a list of one. -/
  | imageWrite (p : Port) (address : ImageAddress) (accesses : List (List Byte))
  /-- LOCK (R65). -/
  | lock (p : Port) (word : Word)
  /-- UNLOCK (R68). -/
  | unlock (p : Port) (word : Word)
  /-- UNLOCK ALL (R69). -/
  | unlockAll (p : Port) (word : Word)
  /-- PRELOAD (R72). -/
  | preload (p : Port) (word : Word)
  /-- PRELOAD CANCEL (R78). -/
  | preloadCancel (p : Port) (word : Word)
  /-- CLAIM (R124). -/
  | claim (p : Port) (word : Word)
  /-- RELEASE (R125). -/
  | release (p : Port) (word : Word)
  /-- STAGE OPEN (R129). -/
  | stageOpen (p : Port) (word : Word)
  /-- PROGRAM (R133). -/
  | program (p : Port) (word : Word)
  /-- ERASE (R134). -/
  | erase (p : Port) (word : Word)
  /-- DROP UNLOCKED (R145). -/
  | dropUnlocked (p : Port) (word : Word)
  /-- DROP ALL (R146). -/
  | dropAll (p : Port) (word : Word)
  /-- LINK STOP (R117). -/
  | linkStop (p : Port) (word : Word)
  /-- LINK START (R119). -/
  | linkStart (p : Port) (word : Word)
  /-- FENCE CLEAR (R162). -/
  | fenceClear (p : Port) (word : Word)
  /-- DIR PICK (R37). -/
  | dirPick (p : Port) (word : Word)
  /-- A write to FENCE (R160). -/
  | fenceWrite (p : Port) (word : Word)
  /-- A write to NOTICE_ENABLE (R164). -/
  | noticeEnableWrite (p : Port) (word : Word)
  /-- A write to PORT_SETTINGS (R62). -/
  | portSettingsWrite (p : Port) (word : Word)
  /-- A write to ALARMS (R159). -/
  | alarmsWrite (p : Port) (word : Word)
  /-- A write to NOTICE_PENDING (R163). -/
  | noticePendingWrite (p : Port) (word : Word)
  /-- A write to Shared Setup word `index` (R152). -/
  | sharedSetupWrite (p : Port) (index : Fin 16) (word : Word)
  /-- A write to a read-only register or an unlisted offset (R166). -/
  | controlWriteIgnored (p : Port) (offset : Byte) (word : Word)
  /-- A control-window access of `size` bytes at `offset` that is not one aligned word (R166). -/
  | controlUnalignedAccess (p : Port) (offset : Byte) (size : Nat)
  /-- The port's PORT_EN line takes the level `high` (R148). -/
  | portEnChange (p : Port) (high : Bool)
  /-- TAKE is asserted (R120). -/
  | takeAssert
  /-- TAKE is released (R121). -/
  | takeRelease
  /-- Power-on, or HUB_RESET goes low (R156). -/
  | hubResetAssert
  /-- HUB_RESET rises, or power-on ends, with the MODE straps at `straps` (R156, R5). -/
  | hubResetEnd (straps : BitVec 2)
  /-- The deadline of the port's outstanding read is reached (R60). -/
  | readDeadline (p : Port)
  /-- The grant timer expires (R127). -/
  | grantTimerExpiry
  /-- The channel's wake delay expires (R113). -/
  | wakeDelayExpiry (c : Channel)
  /-- The channel's poll timer expires (R106). -/
  | pollTimerExpiry (c : Channel)
  /-- The channel's operation timer expires (R110). -/
  | operationTimerExpiry (c : Channel)
  /-- The channel's WAKE transaction ends (R112). -/
  | wakeEnd (c : Channel)
  /-- The channel's IDENT transaction ends with the three bytes read (R113). -/
  | identEnd (c : Channel) (maker typeCode capacity : Byte)
  /-- The READ of the fill in service on the channel ends with the bytes read (R93). -/
  | fillComplete (c : Channel) (data : List Byte)
  /-- The channel's ENABLE_WRITE transaction ends (R106, R109). -/
  | enableWriteEnd (c : Channel)
  /-- The channel's PROGRAM_PAGE transaction ends (R106). -/
  | programPageEnd (c : Channel)
  /-- The channel's ERASE_BLOCK transaction ends (R109). -/
  | eraseBlockEnd (c : Channel)
  /-- The channel's READ_STATUS transaction ends with the status byte (R107). -/
  | readStatusEnd (c : Channel) (status : Byte)
  /-- The verify READ of the program phase on the channel ends with the 256 bytes read (R108). -/
  | verifyReadEnd (c : Channel) (data : List Byte)
deriving DecidableEq, Repr

end Sys2Proof
end

