-- ==== Sys2Proof/WellFormed.lean ====
section
/-! DEFINITION. Which commands can be presented at all: checks of a command's own fields that a type does not make. -/

namespace Sys2Proof

/-- Spec 10, section 10.1: the offset is a command register, a writable port register or a Shared Setup word, so that a
write of one aligned word there is a row of its own. -/
def writableOffset (offset : Byte) : Bool :=
  (0x40 ≤ offset.toNat && offset.toNat ≤ 0x7C) || 0xC0 ≤ offset.toNat ||
    [0x14, 0x18, 0x1C, 0x20, 0x28].contains offset.toNat

/-- R166: one aligned 32-bit word. -/
def alignedWord (offset : Byte) (size : Nat) : Bool := offset.toNat % 4 == 0 && size == 4

/-- The command's fields can stand in one event: a write has at least one access, and each access at least one byte; an ignored write is one aligned word
at an offset that no other row writes; an unaligned access is not one aligned word and has a size; a fill's data is that of
1 to 4 chunks; a verify's data is that of a page. -/
def Instr.wellFormed : Instr → Bool
  | .imageRead _ _ _ => true
  | .imageWrite _ _ accesses => !accesses.isEmpty && accesses.all (fun bytes => !bytes.isEmpty)
  | .lock _ _ => true
  | .unlock _ _ => true
  | .unlockAll _ _ => true
  | .preload _ _ => true
  | .preloadCancel _ _ => true
  | .claim _ _ => true
  | .release _ _ => true
  | .stageOpen _ _ => true
  | .program _ _ => true
  | .erase _ _ => true
  | .dropUnlocked _ _ => true
  | .dropAll _ _ => true
  | .linkStop _ _ => true
  | .linkStart _ _ => true
  | .fenceClear _ _ => true
  | .dirPick _ _ => true
  | .fenceWrite _ _ => true
  | .noticeEnableWrite _ _ => true
  | .portSettingsWrite _ _ => true
  | .alarmsWrite _ _ => true
  | .noticePendingWrite _ _ => true
  | .sharedSetupWrite _ _ _ => true
  | .controlWriteIgnored _ offset _ => offset.toNat % 4 == 0 && !writableOffset offset
  | .controlUnalignedAccess _ offset size => size != 0 && !alignedWord offset size
  | .portEnChange _ _ => true
  | .takeAssert => true
  | .takeRelease => true
  | .hubResetAssert => true
  | .hubResetEnd _ => true
  | .readDeadline _ => true
  | .grantTimerExpiry => true
  | .wakeDelayExpiry _ => true
  | .pollTimerExpiry _ => true
  | .operationTimerExpiry _ => true
  | .wakeEnd _ => true
  | .identEnd _ _ _ _ => true
  | .fillComplete _ data => [32, 64, 96, 128].contains data.length
  | .enableWriteEnd _ => true
  | .programPageEnd _ => true
  | .eraseBlockEnd _ => true
  | .readStatusEnd _ _ => true
  | .verifyReadEnd _ data => data.length == 256

end Sys2Proof
end

