-- ==== Sys2Proof/Decode.lean ====
section
/-! DEFINITION. From words to commands. The opcode table gives no row any bits; the control window does: an aligned word
written at an offset is one row (spec 10, section 10.1, R166, R167). -/

namespace Sys2Proof

/-- The command a word of the opcode table spells. No row of the table has bits (log entry 15), so no word spells one. -/
def decodeTableWord (_nbits _w : Nat) : Option Instr := none

/-- Section 10.1: the row of a write of one aligned word at an offset of the port's control window. -/
def controlWordWrite (p : Port) (offset : Byte) (word : Word) : Instr :=
  match offset.toNat with
  | 0x14 => .alarmsWrite p word
  | 0x18 => .fenceWrite p word
  | 0x1C => .noticePendingWrite p word
  | 0x20 => .noticeEnableWrite p word
  | 0x28 => .portSettingsWrite p word
  | 0x40 => .lock p word
  | 0x44 => .unlock p word
  | 0x48 => .unlockAll p word
  | 0x4C => .preload p word
  | 0x50 => .preloadCancel p word
  | 0x54 => .claim p word
  | 0x58 => .release p word
  | 0x5C => .stageOpen p word
  | 0x60 => .program p word
  | 0x64 => .erase p word
  | 0x68 => .dropUnlocked p word
  | 0x6C => .dropAll p word
  | 0x70 => .linkStop p word
  | 0x74 => .linkStart p word
  | 0x78 => .fenceClear p word
  | 0x7C => .dirPick p word
  | n => if 0xC0 ≤ n then .sharedSetupWrite p (Fin.ofNat 16 ((n - 0xC0) / 4)) word else .controlWriteIgnored p offset word

/-- R166: the row of a write of `size` bytes at an offset of the port's control window. -/
def controlWrite (p : Port) (offset : Byte) (size : Nat) (word : Word) : Instr :=
  if alignedWord offset size then controlWordWrite p offset word else .controlUnalignedAccess p offset size

end Sys2Proof
end

