-- ==== Sys2Proof/Config.lean ====
section
/-! DEFINITION. What the part fixes (sizes of the image's units, limits), and what State.reset takes from the board. -/

namespace Sys2Proof.Config

/-- R1: bytes of a chunk. -/
def chunkBytes : Nat := 32

/-- R1: bytes of a page, the unit of programming. -/
def pageBytes : Nat := 256

/-- R1: bytes of a block, the unit of caching, locking and erase. -/
def blockBytes : Nat := 4096

/-- R1: chunks of a block. -/
def blockChunks : Nat := 128

/-- R64: at most this many entries are locked. -/
def globalLimit : Nat := 12

/-- R126, R151: the unit of the grant timeout and of the erase timeout, 10 ms in time base units. -/
def tenMs : Nat := 10000

/-- R151: the unit of the program timeout, 1 ms in time base units. -/
def oneMs : Nat := 1000

/-- DESIGN CHOICE (log entry 2): what a byte of the chunk store or of the staging data reads as when nothing has been
written there. The spec gives no power-on contents and lets no port see such a byte (R18, R39, R123). -/
def unlistedByte : Byte := 0xFF

/-- DESIGN CHOICE (log entry 1): the strap value of the hub reset that State.reset stands after. -/
def resetStrap : BitVec 2 := 0

/-- DESIGN CHOICE (log entry 1): the level of every PORT_EN line at that reset. -/
def resetPortEn : Bool := true

end Sys2Proof.Config
end

