-- ==== Sys2Proof/Machine/State.lean ====
section
/-! DEFINITION. The state of the hub: every piece of state the spec names, as plain data, and its value after hub reset. -/

namespace Sys2Proof.Machine

/-! ### Indexed families -/

/-- One value for each Client Port. -/
structure PerPort (α : Type) where
  p0 : α
  p1 : α
  p2 : α
  p3 : α
deriving DecidableEq, Repr

/-- The value of one port. -/
def PerPort.get {α : Type} (x : PerPort α) : Port → α
  | .cp0 => x.p0
  | .cp1 => x.p1
  | .cp2 => x.p2
  | .cp3 => x.p3

/-- Replace the value of one port. -/
def PerPort.set {α : Type} (x : PerPort α) (p : Port) (v : α) : PerPort α :=
  match p with
  | .cp0 => { x with p0 := v }
  | .cp1 => { x with p1 := v }
  | .cp2 => { x with p2 := v }
  | .cp3 => { x with p3 := v }

/-- The same value for every port. -/
def PerPort.all {α : Type} (v : α) : PerPort α := ⟨v, v, v, v⟩

/-- A set of ports: one flag per port, so no port is in it twice. -/
abbrev PortSet := PerPort Bool

/-- One value for each channel. -/
structure PerChannel (α : Type) where
  a : α
  b : α
deriving DecidableEq, Repr

/-- The value of one channel. -/
def PerChannel.get {α : Type} (x : PerChannel α) : Channel → α
  | .a => x.a
  | .b => x.b

/-- Replace the value of one channel. -/
def PerChannel.set {α : Type} (x : PerChannel α) (c : Channel) (v : α) : PerChannel α :=
  match c with
  | .a => { x with a := v }
  | .b => { x with b := v }

/-- An addressed buffer of bytes: cells in strictly rising address order, none equal to the unlisted byte. -/
abbrev Memory := List Host.Cell

/-! ### The Client Port -/

/-- R40: what an outstanding read waits for. -/
inductive ReadState where
  | waitingFill
  | heldLink
  | heldVictim
  | heldUpdate
deriving DecidableEq, Repr

/-- R40: the outstanding-read record of a port. -/
structure OutstandingRead where
  address : ImageAddress
  beats : Nat
  state : ReadState
  /-- A moment of the time base; absent when the hold limit was 0 at arrival. -/
  deadline : Option Nat
deriving DecidableEq, Repr

/-- Table 10-1: the codes of RESULT. -/
inductive ResultCode where
  | ok | busy | notGranted | grantHeld | quota | full | noEntry | notHeld
  | range | linkDown | linkRunning | heldForUpdate | notStaged | fenced | alarmActive | badValue
deriving DecidableEq, Repr

/-- R167: RESULT, its code and the offset of the register whose write last set it. -/
structure Result where
  code : ResultCode
  source : Byte
deriving DecidableEq, Repr

/-- Table 10-2: the reasons of LAST_ERROR, which are the reasons of ERROR answers. -/
inductive ErrorReason where
  | none | range | unaligned | linkDown | fenced | notGranted | notStaged | stageRange | busy
deriving DecidableEq, Repr

/-- R63: LAST_ERROR. The address field holds an image address or a control-window offset. -/
structure LastError where
  reason : ErrorReason
  address : ImageAddress
deriving DecidableEq, Repr

/-- R71, R81: how a preload ended. DETACHED never stands in the register, since a detach clears it (R81). -/
inductive PreloadStatus where
  | none | ok | cancelled | dropped | link | fenced | detached
deriving DecidableEq, Repr

/-- R71: the preload state of a port. -/
structure PreloadState where
  running : Bool
  block : Nat
  entry : Fin 16
  lockTaken : Bool
  lastStatus : PreloadStatus
deriving DecidableEq, Repr

/-- R15: the states of a directory entry. -/
inductive EntryState where
  | empty | live | draining
deriving DecidableEq, Repr

/-- R38: a port's snapshot of one directory entry. -/
structure Snapshot where
  taken : Bool
  index : Nat
  state : EntryState
  tag : Option Nat
  validCount : Nat
  holders : PortSet
  owner : Option Port
  rank : Nat
  inService : Bool
  pendingCount : Nat
  underUpdate : Bool
deriving DecidableEq, Repr

/-- The state of one Client Port. -/
structure PortState where
  /-- The level of the PORT_EN line (R147), an input pin. -/
  portEn : Bool
  /-- R147: the attach state. -/
  attached : Bool
  /-- R40: the outstanding read. -/
  read : Option OutstandingRead
  /-- R167. -/
  result : Result
  /-- R63. -/
  lastError : LastError
  /-- R59, R62: hold limit in µs, 0 for no limit. -/
  holdLimit : BitVec 12
  /-- R62: burst enable. -/
  burst : Bool
  /-- R160: auto-fence enable. -/
  autoFence : Bool
  /-- R160: fence mask, one flag per alarm. -/
  fenceMask : BitVec 5
  /-- R160: the fenced flag. -/
  fenced : Bool
  /-- R159: latched flags, one per alarm. -/
  latched : BitVec 5
  /-- R163: pending flags, one per notice cause. -/
  pendingNotices : BitVec 8
  /-- R163: repeat flags, one per notice cause. -/
  repeats : BitVec 8
  /-- R164: notice enables. -/
  enables : BitVec 8
  /-- R164: vector shift. -/
  vectorShift : BitVec 3
  /-- R164: vector base. -/
  vectorBase : BitVec 16
  /-- R71. -/
  preload : PreloadState
  /-- R38: DIR_SNAPSHOT. -/
  snapshot : Snapshot
deriving DecidableEq, Repr

/-! ### The Block Directory -/

/-- R15: a directory entry. -/
structure Entry where
  state : EntryState
  /-- The block number held, in LIVE. -/
  tag : Option Nat
  /-- The chunk map: one valid flag per chunk index. -/
  valid : BitVec 128
  holders : PortSet
  owner : Option Port
deriving DecidableEq, Repr

/-! ### The Link Queue -/

/-- R82: the two kinds of fill. -/
inductive FillKind where
  | demand | preload
deriving DecidableEq, Repr

/-- R85: the first rank key. -/
inductive RecordClass where
  | demand | preload
deriving DecidableEq, Repr

/-- R82, R88: which channel engines may take a record. -/
inductive ChannelTarget where
  | only (c : Channel)
  | either
deriving DecidableEq, Repr

/-- R82: waiting for a channel, or in service on one. -/
inductive RecordState where
  | pending
  | inService (c : Channel)
deriving DecidableEq, Repr

/-- R82: the fields of a fill. -/
structure Fill where
  kind : FillKind
  entry : Fin 16
  /-- The block the entry carried as its tag when the record was created. -/
  block : Nat
  /-- First chunk of the block, and the number of chunks, inside one quad. -/
  first : Nat
  count : Nat
  waiters : PortSet
deriving DecidableEq, Repr

/-- R82: what a record asks of a channel. -/
inductive Work where
  | fill (f : Fill)
  | updateOp (started : Bool)
deriving DecidableEq, Repr

/-- R82: a record of the Link Queue. Its arrival is its place in the queue. -/
structure Record where
  origin : Port
  cls : RecordClass
  level : Nat
  target : ChannelTarget
  state : RecordState
  work : Work
deriving DecidableEq, Repr

/-! ### The channel engines -/

/-- R101, R102: the states of a channel engine. -/
inductive EngineState where
  | off | waking | ident | idle | active | fault
deriving DecidableEq, Repr

/-- R101: why the engine last entered FAULT. -/
inductive FaultReason where
  | none | identBad | timeout
deriving DecidableEq, Repr

/-- R101: the place in the running sequence of spec 06, section 6.3 or 6.5. -/
inductive EngineStep where
  | rest
  | wake
  | wakeDelay
  | ident
  | fillRead
  | enableWrite
  | programPage
  | eraseBlock
  | pollWait
  | readStatus
  | verify (failFlag : Bool)
deriving DecidableEq, Repr

/-- R103: the seven kinds of transaction. -/
inductive TransactionKind where
  | wake | ident | read | enableWrite | programPage | eraseBlock | readStatus
deriving DecidableEq, Repr

/-- R103: a flash transaction under way: its command byte, the flash address it sends (if any), the number of bytes it
reads, and the bytes it sends after the address. -/
structure Transaction where
  kind : TransactionKind
  command : Byte
  address : Option FlashAddress
  readLength : Nat
  sent : List Byte
deriving DecidableEq, Repr

/-- R101: a channel engine. Its record in service is the record of the queue whose state names the channel. -/
structure Engine where
  state : EngineState
  typeCode : Byte
  capacityCode : Byte
  faultReason : FaultReason
  step : EngineStep
  transaction : Option Transaction
  /-- Moments of expiry; absent when stopped. -/
  wakeTimer : Option Nat
  pollTimer : Option Nat
  operationTimer : Option Nat
deriving DecidableEq, Repr

/-! ### The Link Controller -/

/-- R111: the states of the link. -/
inductive LinkState where
  | stopped | bringup | opened | down | stopping | relinquished
deriving DecidableEq, Repr

/-- R6: the mode in effect, when present. -/
inductive Mode where
  | singleA | singleB | split | mirror
deriving DecidableEq, Repr

/-- R4: the configured mode. -/
inductive ConfiguredMode where
  | single | split | mirror
deriving DecidableEq, Repr

/-- R111: the Link Controller, and the takeover pins. -/
structure LinkController where
  state : LinkState
  mode : Option Mode
  imageSize : Nat
  strap : BitVec 2
  /-- The takeover memory: the link was STOPPED at the last takeover. -/
  takeoverStopped : Bool
  firstBringupDone : Bool
  /-- The level of TAKE, an input pin. -/
  takeLine : Bool
  /-- TAKE_ACK, an output pin. -/
  takeAck : Bool
deriving DecidableEq, Repr

/-! ### The Update Controller -/

/-- R132. -/
inductive OpKind where
  | program | erase
deriving DecidableEq, Repr

/-- R132: the result of one channel's phase. -/
inductive PhaseOutcome where
  | none | ok | verifyMismatch | flashFail | timeout | skipped | abandoned
deriving DecidableEq, Repr

/-- R143: the overall outcome. -/
inductive Overall where
  | none | ok | verifyMismatch | flashFail | timeout | stopped | linkLost
deriving DecidableEq, Repr

/-- R132: the phases of an operation. -/
inductive Phases where
  | one (c : Channel)
  | aThenB
deriving DecidableEq, Repr

/-- R132: which phase is pending or in service. -/
inductive Phase where
  | first | second
deriving DecidableEq, Repr

/-- R132: the update operation. Its started field is that of the UPDATE_OP record (R82). -/
structure UpdateOp where
  kind : OpKind
  /-- Page address (PROGRAM) or block number (ERASE). -/
  target : Nat
  origin : Port
  phases : Phases
  current : Phase
  outcomeA : PhaseOutcome
  outcomeB : PhaseOutcome
  verifyA : Option (List Byte)
deriving DecidableEq, Repr

/-- R143: UPDATE_RESULT. -/
structure UpdateResult where
  kind : Option OpKind
  /-- Page address divided by 256 (PROGRAM) or block number (ERASE). -/
  target : Nat
  outcome : Overall
  outcomeA : PhaseOutcome
  outcomeB : PhaseOutcome
  sequence : BitVec 8
deriving DecidableEq, Repr

/-- R123: the Update Controller. The update target is computed from the operation (R135). -/
structure UpdateController where
  holder : Option Port
  orphaned : Bool
  /-- The moment of expiry; absent when stopped. -/
  grantTimer : Option Nat
  stagedPage : Option Nat
  /-- Bytes by offset 0 to 255 in the page. -/
  stagingData : Memory
  written : BitVec 256
  op : Option UpdateOp
  result : UpdateResult
deriving DecidableEq, Repr

/-! ### The Shared Setup -/

/-- R147. -/
inductive AttachSource where
  | pin | setup
deriving DecidableEq, Repr

/-- R151: the fields of words 7 to 10, one word per port. -/
structure PortSetup where
  level : BitVec 2
  quota : BitVec 4
  source : AttachSource
  attachBit : Bool
deriving DecidableEq, Repr

/-- R151: the Shared Setup. -/
structure Setup where
  configuredMode : ConfiguredMode
  enableA : Bool
  enableB : Bool
  linkTiming : BitVec 4
  tbDiv : BitVec 6
  wakeDelay : BitVec 10
  pollInterval : BitVec 8
  programTimeout : BitVec 6
  eraseTimeout : BitVec 8
  busyPosition : BitVec 3
  failPosition : BitVec 3
  wakeCommand : Byte
  identCommand : Byte
  readCommand : Byte
  enableWriteCommand : Byte
  programPageCommand : Byte
  eraseBlockCommand : Byte
  readStatusCommand : Byte
  grantTimeout : BitVec 8
  ports : PerPort PortSetup
deriving DecidableEq, Repr

/-! ### The hub -/

/-- What the hub drives on a port's bus. The bytes of a DATA answer stand in order of rising address (log entry 7). -/
inductive Answer where
  | data (bytes : List Byte)
  | error (reason : ErrorReason)
  | retry
  | done
deriving DecidableEq, Repr

/-- An answer and the port it is driven on. -/
structure BusAnswer where
  port : Port
  answer : Answer
deriving DecidableEq, Repr

/-- The state of the hub. -/
structure State where
  /-- HUB_RESET is low (R156). -/
  inReset : Bool
  ports : PerPort PortState
  /-- R15: the 16 directory entries. -/
  entries : Vector Entry 16
  /-- R21: the LRU order, rank 0 first. -/
  lru : List (Fin 16)
  /-- R18: the chunk store; entry e, offset o in the block, at address 4096 * e + o. -/
  chunks : Memory
  /-- R82: the Link Queue in order of arrival. -/
  queue : List Record
  engines : PerChannel Engine
  link : LinkController
  update : UpdateController
  setup : Setup
  /-- R157: the active alarm set, one flag per alarm id. -/
  alarms : BitVec 5
  /-- R155: time base units counted. -/
  now : Nat
  /-- R155: REFCLK periods counted in the current unit. -/
  refclkCount : Nat
  /-- The answers driven by the latest event, in order (log entry 6). -/
  answers : List BusAnswer
  /-- The commands that wait, first in first out. -/
  pending : List Instr
deriving DecidableEq, Repr

/-- The ways a step could stop. The spec gives the hub none: a refused command, a failed flash operation or a lost link
is a next state with a result code, an answer or an alarm. -/
inductive Fault where
deriving DecidableEq, Repr

/-- The reasons for which a command has no meaning here. -/
inductive Refusal where
  /-- Raised by an arm of exec whose command the model gives no meaning yet; safe, and no arm is left that raises it. -/
  | notModelled (mnemonic : String)
deriving DecidableEq, Repr

/-! ### Reset values -/

/-- R71, R39: no preload has run. -/
def PreloadState.cleared : PreloadState :=
  { running := false, block := 0, entry := 0, lockTaken := false, lastStatus := .none }

/-- R39: DIR_SNAPSHOT with every field 0. -/
def Snapshot.cleared : Snapshot :=
  { taken := false, index := 0, state := .empty, tag := none, validCount := 0, holders := .all false, owner := none,
    rank := 0, inService := false, pendingCount := 0, underUpdate := false }

/-- R147, R62, R63, R71, R165, R167: a port at the end of hub reset, with its PORT_EN line at the given level. -/
def PortState.afterReset (portEn : Bool) : PortState :=
  { portEn := portEn, attached := portEn, read := none,
    result := { code := .ok, source := 0 }, lastError := { reason := .none, address := 0 },
    holdLimit := 0, burst := true, autoFence := false, fenceMask := 0, fenced := false, latched := 0,
    pendingNotices := 0, repeats := 0, enables := 0, vectorShift := 2, vectorBase := 0,
    preload := .cleared, snapshot := .cleared }

/-- R39: an EMPTY entry. -/
def Entry.cleared : Entry :=
  { state := .empty, tag := none, valid := 0, holders := .all false, owner := none }

/-- R101: an engine right after hub reset. -/
def Engine.afterReset : Engine :=
  { state := .off, typeCode := 0, capacityCode := 0, faultReason := .none, step := .rest, transaction := none,
    wakeTimer := none, pollTimer := none, operationTimer := none }

/-- R123: the Update Controller after hub reset; the staging data keeps what it held. -/
def UpdateController.afterReset (stagingData : Memory) : UpdateController :=
  { holder := none, orphaned := false, grantTimer := none, stagedPage := none, stagingData := stagingData, written := 0,
    op := none,
    result := { kind := none, target := 0, outcome := .none, outcomeA := .none, outcomeB := .none, sequence := 0 } }

/-- R151, Table 10-4, Table 10-5: the Shared Setup after hub reset. -/
def Setup.afterReset (mode : ConfiguredMode) : Setup :=
  { configuredMode := mode, enableA := true, enableB := true, linkTiming := 2, tbDiv := 25, wakeDelay := 100,
    pollInterval := 20, programTimeout := 5, eraseTimeout := 50, busyPosition := 0, failPosition := 5,
    wakeCommand := 0xA3, identCommand := 0x8E, readCommand := 0x13, enableWriteCommand := 0x26,
    programPageCommand := 0x32, eraseBlockCommand := 0x4B, readStatusCommand := 0x15, grantTimeout := 50,
    ports := .all { level := 1, quota := 4, source := .pin, attachBit := true } }

/-- The hub right after the hub reset at power-on, with the pins of log entry 1: straps 0 (SINGLE), every PORT_EN high,
TAKE released. The first bring-up has begun (R5, R112): the link is BRINGUP and engine A runs its WAKE. -/
def State.reset : State :=
  { inReset := false
    ports := .all (.afterReset Config.resetPortEn)
    entries := Vector.replicate 16 .cleared
    lru := [0, 1, 2, 3, 4, 5, 6, 7, 8, 9, 10, 11, 12, 13, 14, 15]
    chunks := []
    queue := []
    engines :=
      { a := { Engine.afterReset with
                 state := .waking, step := .wake,
                 transaction := some { kind := .wake, command := 0xA3, address := none, readLength := 0, sent := [] } }
        b := .afterReset }
    link :=
      { state := .bringup, mode := none, imageSize := 0, strap := Config.resetStrap, takeoverStopped := false,
        firstBringupDone := true, takeLine := false, takeAck := false }
    update := .afterReset []
    setup := .afterReset .single
    alarms := 0
    now := 0
    refclkCount := 0
    answers := []
    pending := [] }

end Sys2Proof.Machine
end

