-- ==== Sys2Proof/Machine/Memory.lean ====
section
/-! DEFINITION. Byte buffers in one canonical form: the chunk store (R18) and the staging data (R123). -/

namespace Sys2Proof.Machine

/-- The byte at an address. -/
def Memory.read (m : Memory) (address : Nat) : Byte :=
  match m.find? (fun cell => cell.1 == address) with
  | some cell => cell.2
  | none => Config.unlistedByte

/-- The bytes at `length` consecutive addresses. -/
def Memory.readRange (m : Memory) (address length : Nat) : List Byte :=
  (List.range length).map (fun i => m.read (address + i))

/-- The cells a run of bytes is listed as: those that differ from the unlisted byte. -/
def Memory.cellsFrom : Nat → List Byte → List Host.Cell
  | _, [] => []
  | address, byte :: rest =>
    if byte = Config.unlistedByte then cellsFrom (address + 1) rest
    else (address, byte) :: cellsFrom (address + 1) rest

/-- Store a run of bytes at consecutive addresses. -/
def Memory.writeRange (m : Memory) (address : Nat) (bytes : List Byte) : Memory :=
  m.filter (fun cell => cell.1 < address) ++
    (cellsFrom address bytes ++ m.filter (fun cell => address + bytes.length ≤ cell.1))

/-- The canonical form: addresses strictly rising, and no cell equal to what an unlisted address reads as. -/
def Memory.wf : Memory → Bool
  | [] => true
  | cell :: rest =>
    cell.2 != Config.unlistedByte && rest.all (fun later => cell.1 < later.1) && Memory.wf rest

end Sys2Proof.Machine
end

