-- ==== Sys2Proof/Machine/Ops.lean ====
section
/-! DEFINITION. Named operations over the hub's state: ports, channels, answers, RESULT, LAST_ERROR, timers. -/

namespace Sys2Proof.Machine

/-! ### Ports and port sets -/

/-- The ports in ascending order. -/
def allPorts : List Port := [.cp0, .cp1, .cp2, .cp3]

/-- The number of a port, which is its bit in a set shown to software. -/
def portNumber : Port → Nat
  | .cp0 => 0
  | .cp1 => 1
  | .cp2 => 2
  | .cp3 => 3

/-- The set with no port. -/
def PortSet.empty : PortSet := .all false

/-- The set of the ports for which a test holds. -/
def PortSet.where (test : Port → Bool) : PortSet := ⟨test .cp0, test .cp1, test .cp2, test .cp3⟩

/-- The union of two sets. -/
def PortSet.union (x y : PortSet) : PortSet := .where (fun p => x.get p || y.get p)

/-- The set has a member. -/
def PortSet.nonempty (x : PortSet) : Bool := allPorts.any x.get

/-- The other channel. -/
def otherChannel : Channel → Channel
  | .a => .b
  | .b => .a

/-! ### Access to one port, engine or part of the state -/

/-- The state of a port. -/
def State.port (s : State) (p : Port) : PortState := s.ports.get p

/-- Replace the state of a port. -/
def State.setPort (s : State) (p : Port) (v : PortState) : State := { s with ports := s.ports.set p v }

/-- The engine of a channel. -/
def State.engine (s : State) (c : Channel) : Engine := s.engines.get c

/-- Replace the engine of a channel. -/
def State.setEngine (s : State) (c : Channel) (v : Engine) : State := { s with engines := s.engines.set c v }

/-- A directory entry. -/
def State.entry (s : State) (e : Fin 16) : Entry := s.entries[e]

/-- Replace a directory entry. -/
def State.setEntry (s : State) (e : Fin 16) (v : Entry) : State := { s with entries := s.entries.set e v }

/-- The directory entry indices, 0 to 15. -/
def allEntries : List (Fin 16) := [0, 1, 2, 3, 4, 5, 6, 7, 8, 9, 10, 11, 12, 13, 14, 15]

/-- The Shared Setup fields of a port. -/
def State.portSetup (s : State) (p : Port) : PortSetup := s.setup.ports.get p

/-- R154: a port's software level as the Shared Setup holds it. -/
def State.levelOf (s : State) (p : Port) : Nat := (s.portSetup p).level.toNat

/-! ### Bus answers -/

/-- The state an event starts from: no answer is being driven yet. -/
def State.quiet (s : State) : State := { s with answers := [] }

/-- Drive an answer on a port's bus. -/
def State.answer (s : State) (p : Port) (a : Answer) : State := { s with answers := s.answers ++ [⟨p, a⟩] }

/-- R63: an ERROR answer sets both fields of LAST_ERROR. -/
def State.answerError (s : State) (p : Port) (reason : ErrorReason) (address : ImageAddress) : State :=
  (s.setPort p { s.port p with lastError := ⟨reason, address⟩ }).answer p (.error reason)

/-- R40, R166: an access can be presented on the port's bus: HUB_RESET is high, the port is attached, and no outstanding
read stalls the bus. -/
def State.busFree (s : State) (p : Port) : Bool :=
  !s.inReset && (s.port p).attached && (s.port p).read.isNone

/-- R167: RESULT takes the command's code and the offset of the register written. -/
def State.setResult (s : State) (p : Port) (code : ResultCode) (source : Byte) : State :=
  s.setPort p { s.port p with result := ⟨code, source⟩ }

/-! ### The grant timer and the time base -/

/-- R128: a port counts as the holder only while the holder field names it and the grant is not orphaned. -/
def State.isHolder (s : State) (p : Port) : Bool := s.update.holder == some p && !s.update.orphaned

/-- R126: start or restart the grant timer: it runs while a holder is present, orphaned is no, no operation exists and the
grant timeout is not 0. While an operation exists a restart has no effect. -/
def State.restartGrantTimer (s : State) : State :=
  if s.update.holder.isSome && !s.update.orphaned && s.update.op.isNone then
    { s with update :=
      { s.update with grantTimer :=
          if s.setup.grantTimeout = 0 then none else some (s.now + s.setup.grantTimeout.toNat * Config.tenMs) } }
  else s

/-- R126: an access from the holder's port restarts the grant timer. -/
def State.touchGrant (s : State) (p : Port) : State := if s.isHolder p then s.restartGrantTimer else s

/-- Log entry 4: an expiry taken as an event says that its moment has come, so the time base stands there at least. -/
def State.reachMoment (s : State) (moment : Nat) : State := { s with now := max s.now moment }

/-- R131: close the staging buffer. The staging data is not cleared. -/
def State.closeStaging (s : State) : State :=
  { s with update := { s.update with stagedPage := none, written := 0 } }

/-! ### The forms of an event -/

/-- An event that reaches the hub itself: HUB_RESET low lets no event be taken (R156). -/
def hubEvent (effect : State → State) (s : State) : Host.Outcome State Fault Refusal :=
  .next (if s.inReset then s.quiet else effect s.quiet)

/-- R166, R167: a word written to the command register at `offset`. The command is evaluated, RESULT is written, the
holder's grant timer restarts (R126), and the write is answered DONE. At a detached port the write is ignored. -/
def command (offset : Byte) (p : Port) (effect : State → State × ResultCode) (s : State) :
    Host.Outcome State Fault Refusal :=
  .next (if s.busFree p then
      let r := effect s.quiet
      ((r.1.setResult p r.2 offset).touchGrant p).answer p .done
    else s.quiet)

/-- R168: a word written to a writable port register acts on that port's fields alone and is answered DONE; RESULT and
the grant timer are not touched (R166). -/
def registerWrite (p : Port) (effect : PortState → PortState) (s : State) : Host.Outcome State Fault Refusal :=
  .next (if s.busFree p then (s.quiet.setPort p (effect (s.port p))).answer p .done else s.quiet)

end Sys2Proof.Machine
end

