-- ==== Sys2Proof/Machine/Flags.lean ====
section
/-! DEFINITION. Alarm flags, notice flags, the NOTICE line and NOTICE_VECTOR (spec 09). -/

namespace Sys2Proof.Machine

/-- R157: the five alarms. -/
inductive Alarm where
  | chAFault | chBFault | pairFault | mirrorDegraded | linkTaken
deriving DecidableEq, Repr

/-- R157: the id of an alarm, its bit in every alarm flag set. -/
def Alarm.id : Alarm → Nat
  | .chAFault => 0
  | .chBFault => 1
  | .pairFault => 2
  | .mirrorDegraded => 3
  | .linkTaken => 4

/-- R157: the alarm of a channel. -/
def channelAlarm : Channel → Alarm
  | .a => .chAFault
  | .b => .chBFault

/-- R163: the eight notice causes. -/
inductive Notice where
  | imageLost | updateDone | updateFault | grantExpired | preloadDone | fenced | alarm | linkReady
deriving DecidableEq, Repr

/-- R163: the number of a cause, its bit in the pending, repeat and enable flags. -/
def Notice.number : Notice → Nat
  | .imageLost => 0
  | .updateDone => 1
  | .updateFault => 2
  | .grantExpired => 3
  | .preloadDone => 4
  | .fenced => 5
  | .alarm => 6
  | .linkReady => 7

/-- The flag set with the one flag `n`. -/
def flag (w n : Nat) : BitVec w := BitVec.ofNat w (2 ^ n)

/-- R157: the alarm is in the active alarm set. -/
def State.alarmActive (s : State) (a : Alarm) : Bool := s.alarms.getLsbD a.id

/-- R157: a deactivation changes only the active alarm set. -/
def State.deactivate (s : State) (a : Alarm) : State := { s with alarms := s.alarms &&& ~~~(flag 5 a.id) }

/-- R163: raise a cause in a port's flags: set its pending flag, or its repeat flag when it is already pending. -/
def PortState.raise (x : PortState) (n : Notice) : PortState :=
  if x.pendingNotices.getLsbD n.number then { x with repeats := x.repeats ||| flag 8 n.number }
  else { x with pendingNotices := x.pendingNotices ||| flag 8 n.number }

/-- R163: raise a cause to a port; a raise to a detached port is not recorded. -/
def State.raise (s : State) (p : Port) (n : Notice) : State :=
  if (s.port p).attached then s.setPort p ((s.port p).raise n) else s

/-- Raise a cause to every attached port. -/
def State.raiseAll (s : State) (n : Notice) : State := allPorts.foldl (fun t p => t.raise p n) s

/-- R164: the port's active causes. -/
def PortState.activeCauses (x : PortState) : BitVec 8 := x.pendingNotices &&& x.enables

/-- R164, R156: the NOTICE line is high while the active causes are not empty; it is low while the port is detached and
while HUB_RESET is low. -/
def State.noticeLine (s : State) (p : Port) : Bool :=
  !s.inReset && (s.port p).attached && (s.port p).activeCauses != 0

/-- R164: NOTICE_VECTOR: the base plus the lowest active cause times 2 to the power of the shift, modulo 65536; the base
when there is no active cause. -/
def PortState.noticeVector (x : PortState) : BitVec 16 :=
  match (List.range 8).find? (fun n => x.activeCauses.getLsbD n) with
  | some n => x.vectorBase + BitVec.ofNat 16 (n * 2 ^ x.vectorShift.toNat)
  | none => x.vectorBase

/-- R162: some active alarm has its mask flag clear. -/
def State.unmaskedAlarm (s : State) (p : Port) : Bool := s.alarms &&& ~~~(s.port p).fenceMask != 0

end Sys2Proof.Machine
end

