-- ==== Sys2Proof/Machine/Geometry.lean ====
section
/-! DEFINITION. The image and its geometry (spec 01): units, mapping, usable channels, the update target (R123, R135). -/

namespace Sys2Proof.Machine

/-! ### Units (R1, R2) -/

/-- R2: the block number of an image address. -/
def blockOf (x : Nat) : Nat := x / Config.blockBytes

/-- R2: the chunk index of an image address in its block. -/
def chunkOf (x : Nat) : Nat := x % Config.blockBytes / Config.chunkBytes

/-- R1: the first address of a chunk of a block. -/
def chunkAddress (block chunk : Nat) : Nat := block * Config.blockBytes + chunk * Config.chunkBytes

/-- R3: an image read is well formed. -/
def readWellFormed (x beats : Nat) : Bool :=
  x % 4 == 0 && (1 ≤ beats && beats ≤ 8) && x % Config.chunkBytes + 4 * beats ≤ Config.chunkBytes

/-- R2: the number of image blocks. -/
def State.imageBlocks (s : State) : Nat := s.link.imageSize / Config.blockBytes

/-- R2: a block number is in range. -/
def State.blockInRange (s : State) (block : Nat) : Bool := block < s.imageBlocks

/-! ### Mapping (R6 to R8) -/

/-- R6: the capacity of a channel in bytes, from the capacity code of its last IDENT. -/
def State.capacity (s : State) (c : Channel) : Nat := 2 ^ (s.engine c).capacityCode.toNat

/-- R6: the channel is a channel of the mode in effect. -/
def State.channelInMode (s : State) (c : Channel) : Bool :=
  match s.link.mode, c with
  | some .singleA, .a => true
  | some .singleB, .b => true
  | some .split, _ => true
  | some .mirror, _ => true
  | _, _ => false

/-- R7, R8: the channel is a channel of image address `x` under the mode in effect. -/
def State.channelOf (s : State) (x : Nat) (c : Channel) : Bool :=
  match s.link.mode, c with
  | some .singleA, .a => true
  | some .singleB, .b => true
  | some .split, .a => x < s.capacity .a
  | some .split, .b => s.capacity .a ≤ x
  | some .mirror, _ => true
  | _, _ => false

/-- R8: the channel target of a fill of the unit at `x`: its channel, or either in MIRROR. -/
def State.targetOf (s : State) (x : Nat) : ChannelTarget :=
  if s.link.mode = some .mirror then .either else if s.channelOf x .a then .only .a else .only .b

/-- R8, R132: the phases of an update operation on the unit at `x`. -/
def State.phasesOf (s : State) (x : Nat) : Phases :=
  if s.link.mode = some .mirror then .aThenB else if s.channelOf x .a then .one .a else .one .b

/-- R7: the flash address of image address `x` on a channel. -/
def State.flashAddress (s : State) (x : Nat) (c : Channel) : FlashAddress :=
  if s.link.mode = some .split ∧ c = .b then BitVec.ofNat 24 (x - s.capacity .a) else BitVec.ofNat 24 x

/-- R12 condition 3: an engine state that leaves the channel usable. -/
def EngineState.usable : EngineState → Bool
  | .off => false
  | .fault => false
  | .waking | .ident | .idle | .active => true

/-- R12: the channel is a usable channel for image address `x`. -/
def State.channelUsable (s : State) (x : Nat) (c : Channel) : Bool :=
  x < s.link.imageSize && s.channelOf x c && (s.engine c).state.usable

/-- R12: the address has a usable channel. -/
def State.hasUsableChannel (s : State) (x : Nat) : Bool := s.channelUsable x .a || s.channelUsable x .b

/-! ### The update target (R135) -/

/-- The block of an operation's target. -/
def UpdateOp.block (op : UpdateOp) : Nat :=
  match op.kind with
  | .program => blockOf op.target
  | .erase => op.target

/-- R135: the chunk lies in the target: the 8 chunks of the page, or all of the block. -/
def UpdateOp.coversChunk (op : UpdateOp) (block chunk : Nat) : Bool :=
  op.block == block &&
    (match op.kind with
     | .program => chunk / 8 == op.target % Config.blockBytes / Config.pageBytes
     | .erase => true)

/-- The image address at which the operation's transactions begin (R7). -/
def UpdateOp.address (op : UpdateOp) : Nat :=
  match op.kind with
  | .program => op.target
  | .erase => op.target * Config.blockBytes

/-- The chunk lies in the published update target. -/
def State.inTarget (s : State) (block chunk : Nat) : Bool :=
  match s.update.op with
  | some op => op.coversChunk block chunk
  | none => false

/-- R65 check 2, R72 check 5: an ERASE operation exists whose target is the block. -/
def State.eraseTargets (s : State) (block : Nat) : Bool :=
  match s.update.op with
  | some op => op.kind == .erase && op.target == block
  | none => false

end Sys2Proof.Machine
end

