-- ==== Sys2Proof/Machine/Directory.lean ====
section
/-! DEFINITION. The Block Directory (spec 02) and the records of the Link Queue it asks about: lookup, the LRU order,
victims, allocation, page and block results, the snapshot. -/

namespace Sys2Proof.Machine

/-! ### Records (R82) -/

/-- The fill of a record, if it is one. -/
def Record.fill (r : Record) : Option Fill :=
  match r.work with
  | .fill f => some f
  | .updateOp _ => none

/-- The record is the UPDATE_OP. -/
def Record.isUpdateOp (r : Record) : Bool := r.fill.isNone

/-- The record waits for a channel. -/
def Record.isPending (r : Record) : Bool := r.state == .pending

/-- R15: the record names the entry. -/
def Record.names (r : Record) (e : Fin 16) : Bool := r.fill.any (fun f => f.entry == e)

/-- The chunk lies in the fill's range. -/
def Fill.hasChunk (f : Fill) (chunk : Nat) : Bool := f.first ≤ chunk && chunk < f.first + f.count

/-- R48: the record covers the chunk of the entry. -/
def Record.covers (r : Record) (e : Fin 16) (chunk : Nat) : Bool :=
  r.fill.any (fun f => f.entry == e && f.hasChunk chunk)

/-- R84: the record occupies the port's demand fill slot. -/
def Record.isDemandOf (r : Record) (p : Port) : Bool := r.origin == p && r.fill.any (fun f => f.kind == .demand)

/-- R84: the record occupies the port's preload fill slot. -/
def Record.isPreloadOf (r : Record) (p : Port) : Bool := r.origin == p && r.fill.any (fun f => f.kind == .preload)

/-- R82: the ports that wait for the record. -/
def Record.waiters (r : Record) : PortSet :=
  match r.work with
  | .fill f => f.waiters
  | .updateOp _ => .empty

/-- The ports that wait for any of some records. -/
def waitersOf (rs : List Record) : PortSet := .where (fun p => rs.any (fun r => r.waiters.get p))

/-- Some record names the entry. -/
def State.named (s : State) (e : Fin 16) : Bool := s.queue.any (fun r => r.names e)

/-- R48: some record covers the chunk of the entry. -/
def State.covered (s : State) (e : Fin 16) (chunk : Nat) : Bool := s.queue.any (fun r => r.covers e chunk)

/-- R84: the port's demand fill slot is occupied. -/
def State.demandSlotBusy (s : State) (p : Port) : Bool := s.queue.any (fun r => r.isDemandOf p)

/-- R84: the port's preload fill slot is occupied. -/
def State.preloadSlotBusy (s : State) (p : Port) : Bool := s.queue.any (fun r => r.isPreloadOf p)

/-- Remove the records a test selects. -/
def State.removeRecords (s : State) (sel : Record → Bool) : State :=
  { s with queue := s.queue.filter (fun r => !sel r) }

/-! ### Lookup (R20) and counts (R64) -/

/-- R20: the LIVE entry whose tag is the block. -/
def State.findBlock (s : State) (block : Nat) : Option (Fin 16) :=
  allEntries.find? (fun e => (s.entry e).state == .live && (s.entry e).tag == some block)

/-- R15: the valid flag of a chunk. -/
def Entry.chunkValid (x : Entry) (chunk : Nat) : Bool := x.valid.getLsbD chunk

/-- R73, R77: all 128 chunks are valid. -/
def Entry.allValid (x : Entry) : Bool := x.valid == BitVec.allOnes 128

/-- R38: number of set valid flags. -/
def Entry.validCount (x : Entry) : Nat := (List.range Config.blockChunks).countP x.chunkValid

/-- R15: the entry is locked. -/
def Entry.locked (x : Entry) : Bool := x.holders.nonempty

/-- R64: the locked count. -/
def State.lockedCount (s : State) : Nat := allEntries.countP (fun e => (s.entry e).locked)

/-- R64: the hold count of a port. -/
def State.holdCount (s : State) (p : Port) : Nat := allEntries.countP (fun e => (s.entry e).holders.get p)

/-- R64: the entry of a block, if the port holds the block. -/
def State.heldEntry (s : State) (p : Port) (block : Nat) : Option (Fin 16) :=
  (s.findBlock block).filter (fun e => (s.entry e).holders.get p)

/-! ### The LRU order (R21 to R23) -/

/-- R21: a move to MRU. -/
def State.moveToMru (s : State) (e : Fin 16) : State := { s with lru := e :: s.lru.erase e }

/-- R21, R23: moves to the LRU end of the entries a test selects; they keep their relative order, and so do the others. -/
def State.moveToLruEnd (s : State) (sel : Fin 16 → Bool) : State :=
  { s with lru := s.lru.filter (fun e => !sel e) ++ s.lru.filter sel }

/-- R38: the rank of an entry in the LRU order. -/
def State.rank (s : State) (e : Fin 16) : Nat := s.lru.idxOf e

/-! ### Victims and allocation (R24 to R26) -/

/-- R24: the entry is eligible to be a victim. -/
def State.eligible (s : State) (e : Fin 16) : Bool :=
  match (s.entry e).state with
  | .empty => true
  | .live => !(s.entry e).locked && (s.entry e).owner.isNone && !s.named e
  | .draining => false

/-- R25: the victim is the eligible entry at the highest rank. -/
def State.victim (s : State) : Option (Fin 16) := s.lru.reverse.find? s.eligible

/-- R27: some entry that was not eligible in `before` is eligible in `after`. -/
def becameEligible (before after : State) : Bool :=
  allEntries.any (fun e => !before.eligible e && after.eligible e)

/-- R26: allocation of a block to the victim. -/
def State.allocate (s : State) (e : Fin 16) (block : Nat) : State :=
  (s.setEntry e { state := .live, tag := some block, valid := 0, holders := .empty, owner := none }).moveToMru e

/-- R28: add a port to the holder set of an entry. -/
def State.addHolder (s : State) (e : Fin 16) (p : Port) : State :=
  s.setEntry e { s.entry e with holders := (s.entry e).holders.set p true }

/-- R28: remove a port from the holder set of an entry. -/
def State.removeHolder (s : State) (e : Fin 16) (p : Port) : State :=
  s.setEntry e { s.entry e with holders := (s.entry e).holders.set p false }

/-- R28, R69: remove a port from every holder set. -/
def State.removeAllHolds (s : State) (p : Port) : State := allEntries.foldl (fun t e => t.removeHolder e p) s

/-- R31: an entry that drains becomes EMPTY when no record names it any more; its rank is unchanged. -/
def State.endDrain (s : State) (e : Fin 16) : State :=
  if (s.entry e).state = .draining ∧ s.named e = false then s.setEntry e { s.entry e with state := .empty } else s

/-- R31, R98: every drain whose last record is gone ends. -/
def State.endDrains (s : State) : State := allEntries.foldl State.endDrain s

/-! ### The chunk store (R18) -/

/-- R18: the address of a byte of an entry's area. -/
def slotAddress (e : Fin 16) (offset : Nat) : Nat := e.val * Config.blockBytes + offset

/-- The chunk map with the flags of `count` chunks from `first` set. -/
def chunkMask (first count : Nat) : BitVec 128 := BitVec.ofNat 128 ((2 ^ count - 1) * 2 ^ first)

/-- R30, R32: store bytes into the slots from chunk `first` and set the flags of `count` chunks. -/
def State.storeChunks (s : State) (e : Fin 16) (first count : Nat) (data : List Byte) : State :=
  { s with
    chunks := s.chunks.writeRange (slotAddress e (first * Config.chunkBytes)) data
    entries := s.entries.set e { s.entry e with valid := (s.entry e).valid ||| chunkMask first count } }

/-- R32: the results of a PROGRAM for the directory. -/
inductive PageResult where
  | store (data : List Byte)
  | invalidate
  | keep
deriving DecidableEq, Repr

/-- R33: the results of an ERASE for the directory. -/
inductive BlockResult where
  | erased
  | invalidate
  | keep
deriving DecidableEq, Repr

/-- R32: the first of the 8 chunks of the page at an image address. -/
def pageFirstChunk (page : Nat) : Nat := page % Config.blockBytes / Config.chunkBytes

/-- R32: apply a page result; it is discarded when the page's block is absent. -/
def State.applyPageResult (s : State) (page : Nat) (result : PageResult) : State :=
  match s.findBlock (blockOf page) with
  | none => s
  | some e =>
    match result with
    | .store data => s.storeChunks e (pageFirstChunk page) 8 data
    | .invalidate =>
      s.setEntry e { s.entry e with valid := (s.entry e).valid &&& ~~~(chunkMask (pageFirstChunk page) 8) }
    | .keep => s

/-- R33: apply a block result; it is discarded when the block is absent. -/
def State.applyBlockResult (s : State) (block : Nat) (result : BlockResult) : State :=
  match s.findBlock block with
  | none => s
  | some e =>
    match result with
    | .erased => s.storeChunks e 0 Config.blockChunks (List.replicate Config.blockBytes 0xFF)
    | .invalidate => (s.setEntry e { s.entry e with valid := 0 }).moveToLruEnd (fun x => x == e)
    | .keep => s

/-! ### The snapshot (R38) -/

/-- R38: the state of an entry as DIR PICK shows it. -/
def State.snapshotOf (s : State) (e : Fin 16) : Snapshot :=
  { taken := true
    index := e.val
    state := (s.entry e).state
    tag := (s.entry e).tag
    validCount := (s.entry e).validCount
    holders := (s.entry e).holders
    owner := (s.entry e).owner
    rank := s.rank e
    inService := s.queue.any (fun r => r.names e && !r.isPending)
    pendingCount := s.queue.countP (fun r => r.names e && r.isPending)
    underUpdate :=
      (s.entry e).state == .live && s.update.op.any (fun op => (s.entry e).tag == some op.block) }

end Sys2Proof.Machine
end

