-- ==== Sys2Proof/Machine/Reads.lean ====
section
/-! DEFINITION. The read path (spec 03): evaluation of a read, shaping of a fill, joins, re-evaluation passes. -/

namespace Sys2Proof.Machine

/-! ### Levels (R86) -/

/-- R86: the highest software level among the origin and the waiters, as the Shared Setup stands. -/
def State.memberLevel (s : State) (r : Record) : Nat :=
  allPorts.foldl (fun level p => if r.waiters.get p then max level (s.levelOf p) else level) (s.levelOf r.origin)

/-- The record with another waiter set. -/
def Record.withWaiters (r : Record) (w : PortSet) : Record :=
  match r.work with
  | .fill f => { r with work := .fill { f with waiters := w } }
  | .updateOp _ => r

/-- R99: the port leaves every waiter set it is in, and each record it left has its level recomputed. -/
def State.leaveRecords (s : State) (p : Port) : State :=
  { s with queue := s.queue.map (fun r =>
      if r.waiters.get p then
        let left := r.withWaiters (r.waiters.set p false)
        { left with level := s.memberLevel left }
      else r) }

/-- R154: every record whose origin is the port or one of whose waiters is the port has its level recomputed. -/
def State.recomputeLevels (s : State) (p : Port) : State :=
  { s with queue := s.queue.map (fun r =>
      if r.origin = p ∨ r.waiters.get p = true then { r with level := s.memberLevel r } else r) }

/-! ### Fills -/

/-- R52: the number of chunks a burst takes from chunk `c`: to the end of the quad, stopping before the first chunk that
is valid or covered. -/
def State.burstCount (s : State) (e : Fin 16) (c : Nat) : Nat :=
  1 + (((List.range (3 - c % 4)).map (fun i => c + 1 + i)).takeWhile
        (fun d => !(s.entry e).chunkValid d && !s.covered e d)).length

/-- R49: the port joins the covering record: it becomes a waiter, the record's level is raised to the port's, and the
class becomes DEMAND. -/
def State.join (s : State) (p : Port) (index : Nat) : State :=
  { s with queue := s.queue.modify index (fun r =>
      { r.withWaiters (r.waiters.set p true) with cls := .demand, level := max r.level (s.levelOf p) }) }

/-- R51: create a DEMAND_FILL whose first waiter is the port. -/
def State.createDemandFill (s : State) (p : Port) (e : Fin 16) (block c : Nat) : State :=
  { s with queue := s.queue ++
      [{ origin := p, cls := .demand, level := s.levelOf p, target := s.targetOf (chunkAddress block c)
         state := .pending
         work := .fill
           { kind := .demand, entry := e, block := block, first := c
             count := if (s.port p).burst then s.burstCount e c else 1
             waiters := PortSet.empty.set p true } }] }

/-! ### Evaluation (R42) -/

/-- How the evaluation of a read ends: an answer, or a state to wait in. -/
inductive ReadOutcome where
  | data (bytes : List Byte)
  | error (reason : ErrorReason)
  | waits (state : ReadState)
deriving DecidableEq, Repr

/-- R47, steps 7 and 8: the refusal of a miss, if it is refused; the fence is tested first. -/
def State.missRefusal (s : State) (p : Port) (x : Nat) : Option ErrorReason :=
  if (s.port p).fenced then some .fenced
  else if s.link.state ≠ .opened ∨ s.hasUsableChannel x = false then some .linkDown
  else none

/-- Steps 10 to 12 on an entry already there or just allocated: the fill is created. -/
def State.fillFor (s : State) (p : Port) (e : Fin 16) (x : Nat) : State × ReadOutcome :=
  (s.createDemandFill p e (blockOf x) (chunkOf x), .waits .waitingFill)

/-- Steps 7 to 12: a miss at image address `x`, in the present entry `found` if there is one. -/
def State.missRead (s : State) (p : Port) (x : Nat) (found : Option (Fin 16)) : State × ReadOutcome :=
  match s.missRefusal p x with
  | some reason => (s, .error reason)
  | none =>
    match found with
    | some e =>
      match s.queue.findIdx? (fun r => r.covers e (chunkOf x)) with
      | some i => (s.join p i, .waits .waitingFill)
      | none => if s.demandSlotBusy p then (s, .waits .heldVictim) else s.fillFor p e x
    | none =>
      if s.demandSlotBusy p then (s, .waits .heldVictim)
      else
        match s.victim with
        | some e => (s.allocate e (blockOf x)).fillFor p e x
        | none => (s, .waits .heldVictim)

/-- R42 from step 3: the evaluation of a well-formed read at an attached port. -/
def State.evalRead (s : State) (p : Port) (address : ImageAddress) (beats : Nat) : State × ReadOutcome :=
  let x := address.toNat
  if s.link.state = .bringup then (s, .waits .heldLink)
  else if s.link.imageSize ≤ x then (s, .error .range)
  else if s.inTarget (blockOf x) (chunkOf x) then (s, .waits .heldUpdate)
  else
    match s.findBlock (blockOf x) with
    | some e =>
      if (s.entry e).chunkValid (chunkOf x) then
        (s.moveToMru e, .data (s.chunks.readRange (slotAddress e (x % Config.blockBytes)) (4 * beats)))
      else s.missRead p x (some e)
    | none => s.missRead p x none

/-- R40: the port's outstanding-read record. -/
def State.setRead (s : State) (p : Port) (r : Option OutstandingRead) : State :=
  s.setPort p { s.port p with read := r }

/-- Evaluate a read and give it its outcome: an answer, which removes its record, or the record with its state. -/
def State.takeRead (s : State) (p : Port) (address : ImageAddress) (beats : Nat) (deadline : Option Nat) : State :=
  match s.evalRead p address beats with
  | (t, .data bytes) => (t.setRead p none).answer p (.data bytes)
  | (t, .error reason) => (t.setRead p none).answerError p reason address
  | (t, .waits state) =>
    t.setRead p (some { address := address, beats := beats, state := state, deadline := deadline })

/-! ### Re-evaluation (R55) -/

/-- The port's outstanding read is in the given state. -/
def State.readIn (s : State) (p : Port) (state : ReadState) : Bool := (s.port p).read.any (fun r => r.state == state)

/-- The ports whose reads are in the given state. -/
def State.heldIn (s : State) (state : ReadState) : PortSet := .where (fun p => s.readIn p state)

/-- R55: a read is taken again from step 3 and keeps its deadline. -/
def State.retake (s : State) (p : Port) : State :=
  match (s.port p).read with
  | some r => s.takeRead p r.address r.beats r.deadline
  | none => s

/-- R55: one pass over the reads of a set of ports, in ascending port order. -/
def State.pass (s : State) (which : PortSet) : State :=
  allPorts.foldl (fun t p => if which.get p then t.retake p else t) s

/-- R56, R58: the reads held in a state are taken again in one pass. -/
def State.retakeHeld (s : State) (state : ReadState) : State := s.pass (s.heldIn state)

/-! ### Answers at removals (R54) -/

/-- R54: the port's read is answered ERROR LINK_DOWN, with the read's address in LAST_ERROR. -/
def State.answerLinkDown (s : State) (p : Port) : State :=
  match (s.port p).read with
  | some r => (s.setRead p none).answerError p .linkDown r.address
  | none => s

/-- R96 to R98: remove records and answer each of their waiters ERROR LINK_DOWN. The rules give the waiters no order; that
their answers stand in `answers` in ascending port order is the model's choice (log entry 6). -/
def State.removeLinkDown (s : State) (sel : Record → Bool) : State :=
  allPorts.foldl (fun t p => if (waitersOf (s.queue.filter sel)).get p then t.answerLinkDown p else t)
    (s.removeRecords sel)

/-- R54: the waiters become HELD_UPDATE and keep their deadlines. -/
def State.holdForUpdate (s : State) (p : Port) : State :=
  s.setPort p { s.port p with read := (s.port p).read.map (fun r => { r with state := .heldUpdate }) }

/-- R53: a waiter of a completed fill is answered DATA with the words of its chunk, out of the data read. -/
def State.answerFromFill (s : State) (f : Fill) (data : List Byte) (p : Port) : State :=
  match (s.port p).read with
  | some r =>
    let offset := (chunkOf r.address.toNat - f.first) * Config.chunkBytes + r.address.toNat % Config.chunkBytes
    (s.setRead p none).answer p (.data ((data.drop offset).take (4 * r.beats)))
  | none => s

end Sys2Proof.Machine
end

