-- ==== Sys2Proof/Machine/Queue.lean ====
section
/-! DEFINITION. The Link Arbiter and the start of flash transactions: rank, eligibility, quiescence, dispatch (spec 05),
the transactions of a record (spec 06, sections 6.2 and 6.3). -/

namespace Sys2Proof.Machine

/-! ### Engines and transactions -/

/-- R103: the command byte of a transaction, from the flash command table of the Shared Setup. -/
def Setup.commandByte (x : Setup) : TransactionKind → Byte
  | .wake => x.wakeCommand
  | .ident => x.identCommand
  | .read => x.readCommand
  | .enableWrite => x.enableWriteCommand
  | .programPage => x.programPageCommand
  | .eraseBlock => x.eraseBlockCommand
  | .readStatus => x.readStatusCommand

/-- R103: the engine starts a transaction and stands at the given step of its sequence. -/
def State.startTransaction (s : State) (c : Channel) (step : EngineStep) (kind : TransactionKind)
    (address : Option FlashAddress) (readLength : Nat) (sent : List Byte) : State :=
  s.setEngine c { s.engine c with
    step := step
    transaction := some
      { kind := kind, command := s.setup.commandByte kind, address := address, readLength := readLength, sent := sent } }

/-- An engine at rest in a state: no transaction, timers stopped. The codes and the fault reason are kept. -/
def Engine.restIn (x : Engine) (state : EngineState) : Engine :=
  { x with state := state, step := .rest, transaction := none, wakeTimer := none, pollTimer := none,
           operationTimer := none }

/-- The engine comes to rest in a state. -/
def State.restEngine (s : State) (c : Channel) (state : EngineState) : State :=
  s.setEngine c ((s.engine c).restIn state)

/-- R101: the record in service on a channel. -/
def State.serviced (s : State) (c : Channel) : Option Record :=
  s.queue.find? (fun r => r.state == .inService c)

/-! ### Rank and eligibility (R87 to R89) -/

/-- R87: the order of the first key, DEMAND before PRELOAD. -/
def RecordClass.order : RecordClass → Nat
  | .demand => 0
  | .preload => 1

/-- R87: the record ranks above another by class, level or origin port; the fourth key, arrival, is the order of the
queue. -/
def Record.ranksAbove (r other : Record) : Bool :=
  r.cls.order < other.cls.order ||
    (r.cls.order == other.cls.order &&
      (other.level < r.level || (r.level == other.level && portNumber r.origin < portNumber other.origin)))

/-- R89: the fill reads an image address inside the update target. -/
def State.fillInTarget (s : State) (f : Fill) : Bool :=
  (List.range f.count).any (fun i => s.inTarget f.block (f.first + i))

/-- R89: no fill that reads an image address inside the update target is in service. -/
def State.quiescent (s : State) : Bool :=
  !s.queue.any (fun r => !r.isPending && r.fill.any s.fillInTarget)

/-- R88 condition 3: the channel target admits the channel. -/
def ChannelTarget.admits : ChannelTarget → Channel → Bool
  | .only d, c => c == d
  | .either, _ => true

/-- R88: the record is eligible for the channel. -/
def State.eligibleFor (s : State) (c : Channel) (r : Record) : Bool :=
  r.isPending && (s.channelInMode c && (s.engine c).state == .idle) && r.target.admits c &&
    (!r.isUpdateOp || s.quiescent)

/-! ### Dispatch (R90, R91) -/

/-- R87: the highest-ranked of some records in order of arrival, each with its place in the queue. -/
def highestRanked (rs : List (Record × Nat)) : Option (Record × Nat) :=
  rs.foldl (fun best x =>
    match best with
    | none => some x
    | some y => if x.1.ranksAbove y.1 then some x else some y) none

/-- R105, R106, R109: the transaction a record opens on its channel at dispatch. -/
def State.openRecord (s : State) (c : Channel) (r : Record) : State :=
  match r.work with
  | .fill f =>
    s.startTransaction c .fillRead .read (some (s.flashAddress (chunkAddress f.block f.first) c))
      (f.count * Config.chunkBytes) []
  | .updateOp _ => s.startTransaction c .enableWrite .enableWrite none 0 []

/-- R90: a record put in service; an UPDATE_OP's started field becomes yes. -/
def Record.serve (r : Record) (c : Channel) : Record :=
  match r.work with
  | .fill _ => { r with state := .inService c }
  | .updateOp _ => { r with state := .inService c, work := .updateOp true }

/-- R90: give the channel the record at a place of the queue; the engine becomes ACTIVE and opens its transaction. -/
def State.serve (s : State) (c : Channel) (r : Record) (index : Nat) : State :=
  ({ s with queue := s.queue.set index (r.serve c) }.setEngine c { s.engine c with state := .active }).openRecord c r

/-- R91: the highest-ranked record that is eligible for an idle channel is given to A if it is eligible for A, and to B
otherwise. -/
def State.dispatchOne (s : State) : State :=
  match highestRanked (s.queue.zipIdx.filter (fun x => s.eligibleFor .a x.1 || s.eligibleFor .b x.1)) with
  | some (r, index) => s.serve (if s.eligibleFor .a r then .a else .b) r index
  | none => s

/-- R90, R91: the dispatch at the end of an event; at most two channels are idle. -/
def State.dispatch (s : State) : State := s.dispatchOne.dispatchOne

end Sys2Proof.Machine
end

