-- ==== Sys2Proof/Machine/Passes.lean ====
section
/-! DEFINITION. An event in progress: preload ends and cursors (spec 04), drops (spec 02), alarms and fences (spec 09),
and the order in which an event hands on its consequences: passes, cursors, dispatch, stop completion (R90, R95, R118). -/

namespace Sys2Proof.Machine

/-- An event in progress: the hub as it stands, and the re-evaluations the event owes. -/
structure Ongoing where
  hub : State
  /-- Ports whose reads a removal handed back (R34, R79, R95). -/
  back : PortSet
  /-- Ports that became fenced with a HELD_VICTIM read (R57, R158). -/
  fenced : PortSet
  /-- An event of R57 concerns every HELD_VICTIM read. -/
  victims : Bool
deriving DecidableEq, Repr

/-- An event that owes nothing yet. -/
def Ongoing.start (s : State) : Ongoing := { hub := s, back := .empty, fenced := .empty, victims := false }

/-- Apply a change of the hub. -/
def Ongoing.on (g : Ongoing) (f : State → State) : Ongoing := { g with hub := f g.hub }

/-- The event owes a pass over the HELD_VICTIM reads. -/
def Ongoing.oweVictims (g : Ongoing) : Ongoing := { g with victims := true }

/-! ### The end of a preload (R79) -/

/-- R79 step 1: the record is the pending one of the port's preload. -/
def Record.isPendingPreloadOf (r : Record) (p : Port) : Bool := r.isPending && r.isPreloadOf p

/-- R79 step 3, R29: the port is no owner of the entry any more. -/
def State.clearOwner (s : State) (p : Port) (e : Fin 16) : State :=
  if (s.entry e).owner = some p then s.setEntry e { s.entry e with owner := none } else s

/-- R79 steps 3 and 5: the preload state takes the end status, and PRELOAD_DONE is raised unless the status is DETACHED. -/
def State.recordPreloadEnd (s : State) (p : Port) (status : PreloadStatus) : State :=
  let t := s.setPort p { s.port p with preload := { (s.port p).preload with running := false, lastStatus := status } }
  if status = .detached then t else t.raise p .preloadDone

/-- R79: the end of the port's running preload with a status; nothing when none runs (R81). Its pending record is removed
and the waiters are handed back, the owner is cleared, HELD_VICTIM reads are owed a pass if the entry is then eligible, and
PRELOAD_DONE is raised. -/
def Ongoing.endPreload (g : Ongoing) (p : Port) (status : PreloadStatus) : Ongoing :=
  let e := (g.hub.port p).preload.entry
  if (g.hub.port p).preload.running then
    let s := (((g.hub.removeRecords (fun r => r.isPendingPreloadOf p)).clearOwner p e).recordPreloadEnd p status)
    { g with
      hub := s
      back := g.back.union (waitersOf (g.hub.queue.filter (fun r => r.isPendingPreloadOf p)))
      victims := g.victims || s.eligible e }
  else g

/-- R80: every running preload that a test selects ends LINK. -/
def Ongoing.endPreloadsLink (g : Ongoing) (sel : State → Port → Bool) : Ongoing :=
  allPorts.foldl (fun h p => if sel h.hub p then h.endPreload p .link else h) g

/-! ### Passes (R55 to R58) -/

/-- The reads handed back, those of ports just fenced, every HELD_VICTIM read and those of `also`, in one pass. -/
def Ongoing.retakeVictims (g : Ongoing) (also : PortSet) : Ongoing :=
  .start (g.hub.pass ((g.back.union g.fenced).union ((g.hub.heldIn .heldVictim).union also)))

/-- The reads the event owes a pass to are taken again in one pass. -/
def Ongoing.retakeDue (g : Ongoing) : Ongoing :=
  if g.victims then g.retakeVictims .empty else .start (g.hub.pass (g.back.union g.fenced))

/-! ### The preload cursor (R74, R75) -/

/-- R74: the next chunk: the lowest chunk of the entry that is not valid, not covered and not in the update target. -/
def State.nextChunk (s : State) (e : Fin 16) (block : Nat) : Option Nat :=
  (List.range Config.blockChunks).find? (fun c =>
    !(s.entry e).chunkValid c && !s.covered e c && !s.inTarget block c)

/-- R74: create a PRELOAD_FILL from chunk `c` of the preload's entry. -/
def State.createPreloadFill (s : State) (p : Port) (e : Fin 16) (block c : Nat) : State :=
  { s with queue := s.queue ++
      [{ origin := p, cls := .preload, level := s.levelOf p, target := s.targetOf (chunkAddress block c)
         state := .pending
         work := .fill
           { kind := .preload, entry := e, block := block, first := c, count := s.burstCount e c, waiters := .empty } }] }

/-- R75: the cursor of the port's running preload acts: it ends the preload OK, places one record, or waits. -/
def Ongoing.actCursor (g : Ongoing) (p : Port) : Ongoing :=
  let pre := (g.hub.port p).preload
  if pre.running then
    if (g.hub.entry pre.entry).allValid then g.endPreload p .ok
    else if g.hub.preloadSlotBusy p then g
    else
      match g.hub.nextChunk pre.entry pre.block with
      | some c => g.on (fun s => s.createPreloadFill p pre.entry pre.block c)
      | none => g
  else g

/-- The cursors act, in ascending port order (log entry 11). -/
def Ongoing.actCursors (g : Ongoing) : Ongoing := allPorts.foldl Ongoing.actCursor g

/-! ### The end of an event -/

/-- R118: a channel engine that is IDLE or in FAULT goes OFF, and its alarm becomes inactive if it was in FAULT. -/
def State.stopEngine (s : State) (c : Channel) : State :=
  let t := if (s.engine c).state = .fault then s.deactivate (channelAlarm c) else s
  if (s.engine c).state = .idle ∨ (s.engine c).state = .fault then t.restEngine c .off else t

/-- R118: the stop completes when the link is STOPPING, the queue is empty and no engine is ACTIVE. -/
def State.completeStop (s : State) : State :=
  if s.link.state = .stopping ∧ s.queue = [] ∧ (s.engine .a).state ≠ .active ∧ (s.engine .b).state ≠ .active then
    let t := (s.stopEngine .a).stopEngine .b
    { t with link := { t.link with state := .stopped } }
  else s

/-- The end of an event: the pass it owes, the cursors, the pass that a preload ended OK owes (R79), the dispatch (R90)
and the completion of a stop (R118). -/
def Ongoing.settle (g : Ongoing) : State := g.retakeDue.actCursors.retakeDue.hub.dispatch.completeStop

/-! ### Alarms and fences (R158) -/

/-- R158 step 3: the port becomes fenced; its running preload ends FENCED and its HELD_VICTIM read is owed a pass. -/
def Ongoing.fence (g : Ongoing) (p : Port) : Ongoing :=
  let s := (g.hub.setPort p { g.hub.port p with fenced := true }).raise p .fenced
  let h := { g with
    hub := s
    fenced := if s.readIn p .heldVictim then g.fenced.set p true else g.fenced }
  h.endPreload p .fenced

/-- R158: what an activation does for one attached port: latch, ALARM, fence. -/
def Ongoing.alarmPort (a : Alarm) (g : Ongoing) (p : Port) : Ongoing :=
  if (g.hub.port p).attached then
    let g := g.on (fun s =>
      (s.setPort p { s.port p with latched := (s.port p).latched ||| flag 5 a.id }).raise p .alarm)
    let x := g.hub.port p
    if x.autoFence && !x.fenceMask.getLsbD a.id && !x.fenced then g.fence p else g
  else g

/-- R157, R158: an activation; an alarm already active is not activated again. -/
def Ongoing.activate (g : Ongoing) (a : Alarm) : Ongoing :=
  if g.hub.alarmActive a then g
  else allPorts.foldl (Ongoing.alarmPort a) (g.on (fun s => { s with alarms := s.alarms ||| flag 5 a.id }))

/-! ### Drops (R34, R35) -/

/-- R57, R35, R54: the removal of these records without completing frees the demand fill slot of a port that holds a
HELD_VICTIM read (log entry 9). -/
def State.freesVictimSlot (s : State) (removed : List Record) : Bool :=
  removed.any (fun r => r.isDemandOf r.origin && s.readIn r.origin .heldVictim)

/-- R34 step 1: the pending records that name the entry are removed and their waiters handed back. -/
def Ongoing.removeForDrop (g : Ongoing) (e : Fin 16) : Ongoing :=
  let removed := g.hub.queue.filter (fun r => r.isPending && r.names e)
  { g with
    hub := g.hub.removeRecords (fun r => r.isPending && r.names e)
    back := g.back.union (waitersOf removed)
    victims := g.victims || g.hub.freesVictimSlot removed }

/-- R34 step 2: the preload of the entry's owner ends DROPPED. -/
def Ongoing.endOwnedPreload (g : Ongoing) (e : Fin 16) : Ongoing :=
  match (g.hub.entry e).owner with
  | some p => g.endPreload p .dropped
  | none => g

/-- R34 steps 3 to 5: the entry loses everything, and drains while a record still names it. -/
def Ongoing.clearEntry (g : Ongoing) (e : Fin 16) : Ongoing :=
  { g with
    hub := g.hub.setEntry e { Entry.cleared with state := if g.hub.named e then .draining else .empty }
    victims := g.victims || !g.hub.named e }

/-- R34: one entry is dropped, but for its move to the LRU end. An EMPTY or DRAINING entry stays as it is. -/
def Ongoing.dropEntry (g : Ongoing) (e : Fin 16) : Ongoing :=
  if (g.hub.entry e).state = .live then ((g.removeForDrop e).endOwnedPreload e).clearEntry e else g

/-- R35: a drop over the entries a test selects; the LRU order is set as R23 gives for a multi-entry drop. -/
def Ongoing.drop (g : Ongoing) (sel : Fin 16 → Bool) : Ongoing :=
  (allEntries.foldl (fun h e => if sel e then h.dropEntry e else h) g).on (fun s => s.moveToLruEnd sel)

end Sys2Proof.Machine
end

