-- ==== Sys2Proof/Machine/Update.lean ====
section
/-! DEFINITION. The update operation (spec 07, sections 7.4 to 7.8) and channel faults (R97, R115, R116): acceptance, the end
of a phase, degradation, the end of the operation. -/

namespace Sys2Proof.Machine

/-! ### Acceptance (R135) -/

/-- R94: the UPDATE_OP record of an operation on the unit at its address. -/
def State.updateRecord (s : State) (op : UpdateOp) : Record :=
  { origin := op.origin, cls := .demand, level := s.levelOf op.origin
    target := match op.phases with | .one c => .only c | .aThenB => .only .a
    state := .pending, work := .updateOp false }

/-- R135 steps 1 to 3: the operation is recorded, which publishes its target, and the grant timer stops. -/
def State.publish (s : State) (op : UpdateOp) : State :=
  { s with update := { s.update with op := some op, grantTimer := none } }

/-- R54: the pending fills inside the update target. -/
def State.pendingInTarget (s : State) (r : Record) : Bool := r.isPending && r.fill.any s.fillInTarget

/-- R54, R135 step 4: the pending fills inside the target are removed and their waiters become HELD_UPDATE. -/
def State.clearTarget (s : State) : State :=
  allPorts.foldl (fun t p => if (waitersOf (s.queue.filter s.pendingInTarget)).get p then t.holdForUpdate p else t)
    (s.removeRecords s.pendingInTarget)

/-- R135 step 5: the UPDATE_OP record joins the queue. -/
def State.queueOperation (s : State) (op : UpdateOp) : State := { s with queue := s.queue ++ [s.updateRecord op] }

/-- R135: an accepted operation is taken: published, pending fills inside the target removed and their waiters HELD_UPDATE,
the UPDATE_OP queued, and the consequences handed on. -/
def State.accept (s : State) (op : UpdateOp) : State :=
  let t := s.publish op
  let u := t.clearTarget.queueOperation op
  Ongoing.settle
    { Ongoing.start u with
      victims := becameEligible s u || u.freesVictimSlot (t.queue.filter t.pendingInTarget) }

/-! ### The end of an operation (R142) -/

/-- What the end of an operation leaves the directory for its target: the new content (Store or Erased), an invalidated
target, or the content kept. -/
inductive TargetResult where
  | updated (data : List Byte)
  | invalidate
  | keep
deriving DecidableEq, Repr

/-- R142 step 1: the page or block result. -/
def State.applyTargetResult (s : State) (op : UpdateOp) (result : TargetResult) : State :=
  match op.kind, result with
  | .program, .updated data => s.applyPageResult op.target (.store data)
  | .program, .invalidate => s.applyPageResult op.target .invalidate
  | .program, .keep => s.applyPageResult op.target .keep
  | .erase, .updated _ => s.applyBlockResult op.target .erased
  | .erase, .invalidate => s.applyBlockResult op.target .invalidate
  | .erase, .keep => s.applyBlockResult op.target .keep

/-- R143: the target field of UPDATE_RESULT. -/
def UpdateOp.resultTarget (op : UpdateOp) : Nat :=
  match op.kind with
  | .program => op.target / Config.pageBytes
  | .erase => op.target

/-- R142 step 2: UPDATE_RESULT is written and its sequence count is advanced. -/
def State.writeUpdateResult (s : State) (op : UpdateOp) (overall : Overall) : State :=
  { s with update := { s.update with result :=
      { kind := some op.kind, target := op.resultTarget, outcome := overall, outcomeA := op.outcomeA,
        outcomeB := op.outcomeB, sequence := s.update.result.sequence + 1 } } }

/-- R142 step 3, R131: the target is withdrawn, the operation and its record are gone, and the staging buffer is closed
for a PROGRAM and for any operation a takeover ends. -/
def State.withdraw (s : State) (op : UpdateOp) (overall : Overall) : State :=
  let t := { s with update := { s.update with op := none } }.removeRecords Record.isUpdateOp
  if op.kind = .program ∨ overall = .linkLost then t.closeStaging else t

/-- R128, R131: the grant is released and the staging buffer is closed. -/
def State.releaseGrant (s : State) : State :=
  { s with update := { s.update with
      holder := none, orphaned := false, grantTimer := none, stagedPage := none, written := 0 } }

/-- R142 steps 5 and 6: an orphaned grant is released with no notice; otherwise the grant timer restarts and the holder
gets UPDATE_DONE or UPDATE_FAULT. -/
def State.concludeGrant (s : State) (op : UpdateOp) (overall : Overall) : State :=
  if s.update.orphaned then s.releaseGrant
  else s.restartGrantTimer.raise op.origin (if overall = .ok then .updateDone else .updateFault)

/-- R142: the end of an operation, up to its dispatch. The pass of step 4 takes the HELD_UPDATE reads alone; where a
degradation was made in the same event, every other read the event owes a pass is taken in the same pass. -/
def Ongoing.endOperation (g : Ongoing) (op : UpdateOp) (overall : Overall) (result : TargetResult) (degraded : Bool) :
    Ongoing :=
  let g := g.on (fun s => ((s.applyTargetResult op result).writeUpdateResult op overall).withdraw op overall)
  let g := if degraded then g.retakeVictims (g.hub.heldIn .heldUpdate) else g.on (fun s => s.retakeHeld .heldUpdate)
  g.actCursors.on (fun s => s.concludeGrant op overall)

/-! ### The end of a phase (R136 to R140) -/

/-- The overall outcome a phase outcome gives (R142 step 2). -/
def PhaseOutcome.overall : PhaseOutcome → Overall
  | .none => .none
  | .ok => .ok
  | .verifyMismatch => .verifyMismatch
  | .flashFail => .flashFail
  | .timeout => .timeout
  | .skipped => .none
  | .abandoned => .linkLost

/-- R132: set the outcome of a channel's phase. -/
def UpdateOp.withOutcome (op : UpdateOp) (c : Channel) (outcome : PhaseOutcome) : UpdateOp :=
  match c with
  | .a => { op with outcomeA := outcome }
  | .b => { op with outcomeB := outcome }

/-- R136, R137: the result of an operation of one phase. -/
def singlePhaseResult (kind : OpKind) (outcome : PhaseOutcome) (data : List Byte) : TargetResult :=
  match kind, outcome with
  | _, .timeout => .invalidate
  | .program, _ => .updated data
  | .erase, .ok => .updated []
  | .erase, _ => .invalidate

/-- R11: MIRROR degrades; the lost channel leaves the mode, and goes OFF unless it is in FAULT (R139, R140). -/
def Ongoing.degrade (g : Ongoing) (lost : Channel) : Ongoing :=
  let g := g.on (fun s =>
    let t := if (s.engine lost).state = .fault then s
      else s.setEngine lost { (s.engine lost).restIn .off with faultReason := .none }
    { t with link := { t.link with mode := some (match lost with | .a => .singleB | .b => .singleA) } })
  g.activate .mirrorDegraded

/-- R138: the operation after phase A ended OK; a PROGRAM keeps the verify bytes. -/
def UpdateOp.secondPhase (op : UpdateOp) (data : List Byte) : UpdateOp :=
  { op with
    current := .second, outcomeA := .ok
    verifyA := match op.kind with
      | .program => some data
      | .erase => none }

/-- R94, R138: the phase boundary: the record returns to PENDING with channel target B, keeping its place. -/
def State.phaseBoundary (s : State) (op : UpdateOp) (data : List Byte) : State :=
  { s with
    queue := s.queue.map (fun r => if r.isUpdateOp then { r with target := .only .b, state := .pending } else r)
    update := { s.update with op := some (op.secondPhase data) } }

/-- R136 to R140: the Update Controller takes the outcome of the phase on channel `c`, with the verify bytes. -/
def Ongoing.endPhase (g : Ongoing) (c : Channel) (outcome : PhaseOutcome) (data : List Byte) : Ongoing :=
  match g.hub.update.op with
  | none => g
  | some op =>
    match op.phases, op.current with
    | .one _, _ =>
      g.endOperation (op.withOutcome c outcome) outcome.overall (singlePhaseResult op.kind outcome data) false
    | .aThenB, .first =>
      if outcome = .ok then g.on (fun s => s.phaseBoundary op data)
      else
        (g.degrade .a).endOperation { op with outcomeA := outcome, outcomeB := .skipped } outcome.overall .keep true
    | .aThenB, .second =>
      let result := TargetResult.updated (op.verifyA.getD [])
      if outcome = .ok then g.endOperation { op with outcomeB := .ok } .ok result false
      else (g.degrade .b).endOperation { op with outcomeB := outcome } outcome.overall result true

/-! ### Channel faults while the link is OPEN (R115) -/

/-- R115: an engine state that keeps the link OPEN in SPLIT when the other channel faults. -/
def EngineState.serves : EngineState → Bool
  | .idle => true
  | .active => true
  | .off | .waking | .ident | .fault => false

/-- R96, R97: the fault of channel `c` removes the record, by the mode in effect before it: in SPLIT with the other channel
serving, the pending records of `c`; in MIRROR none; otherwise the link goes DOWN and every pending record is removed. -/
def State.faultRemoves (s : State) (c : Channel) (before : Option Mode) (r : Record) : Bool :=
  r.isPending &&
    match before with
    | some .mirror => false
    | some .split => r.target == .only c || !(s.engine (otherChannel c)).state.serves
    | some .singleA => true
    | some .singleB => true
    | none => false

/-- R79 step 1, R158: the reads handed back by preloads that the channel's alarm ended FENCED, whose records the fault
itself removes, are answered ERROR LINK_DOWN by the removal rule; `queue` is the Link Queue before the event. Their order in
`answers` is the model's choice (log entry 6). -/
def Ongoing.answerFaulted (g : Ongoing) (removed : Record → Bool) (queue : List Record) : Ongoing :=
  let lost := waitersOf (queue.filter removed)
  { g with
    hub := allPorts.foldl (fun t p => if g.back.get p && lost.get p then t.answerLinkDown p else t) g.hub
    back := .where (fun p => g.back.get p && !lost.get p) }

/-- R96, R116: the link leaves OPEN for DOWN: every pending record is removed and every running preload ends LINK. -/
def Ongoing.goDown (g : Ongoing) : Ongoing :=
  let g := g.on (fun s => { s with link := { s.link with state := .down } }.removeLinkDown Record.isPending)
  (g.endPreloadsLink (fun _ _ => true)).oweVictims

/-- R97, R80: SPLIT with the other channel usable: pending records of the faulted channel are removed, and preloads whose
block has no usable channel end LINK. -/
def Ongoing.loseChannel (g : Ongoing) (c : Channel) : Ongoing :=
  let g := g.on (fun s => s.removeLinkDown (fun r => r.isPending && r.target == .only c))
  (g.endPreloadsLink (fun s p =>
    !s.hasUsableChannel (chunkAddress (s.port p).preload.block 0))).oweVictims

/-- R115: the Link Controller decides by the mode in effect before the fault of channel `c`. In MIRROR the degradation
has been made at the failed phase. -/
def Ongoing.channelFault (g : Ongoing) (c : Channel) (before : Option Mode) : Ongoing :=
  match before with
  | some .mirror => g
  | some .split => if (g.hub.engine (otherChannel c)).state.serves then g.loseChannel c else g.goDown
  | some .singleA | some .singleB => g.goDown
  | none => g

end Sys2Proof.Machine
end

