-- ==== Sys2Proof/Machine/Link.lean ====
section
/-! DEFINITION. The Link Controller (spec 06, sections 6.4 to 6.8): bring-up, stop, takeover, release. -/

namespace Sys2Proof.Machine

/-! ### Bring-up (R112 to R114) -/

/-- R112 step 3: the channel is enabled for a bring-up. -/
def Setup.channelEnabled (x : Setup) : Channel → Bool
  | .a => x.enableA
  | .b => x.configuredMode != .single && x.enableB

/-- R112 step 4: an enabled channel enters WAKING and starts a WAKE; a channel that is not enabled is set OFF with its
codes cleared. -/
def State.wakeChannel (s : State) (c : Channel) : State :=
  let e := { s.engine c with typeCode := 0, capacityCode := 0 }
  if s.setup.channelEnabled c then
    (s.setEngine c { e.restIn .waking with faultReason := .none }).startTransaction c .wake .wake none 0 []
  else s.setEngine c (e.restIn .off)

/-- R114: the mode in effect that the pairing decision gives; `a` and `b` say which channels are ok, `equal` that their
codes are equal. -/
def pairing (configured : ConfiguredMode) (a b equal : Bool) : Option Mode :=
  match configured with
  | .single => if a then some .singleA else none
  | .split => if a then (if b then some .split else some .singleA) else none
  | .mirror => if a then (if b && equal then some .mirror else some .singleA) else if b then some .singleB else none

/-- R10, R114: the image size of a mode in effect. -/
def State.sizeOf (s : State) : Option Mode → Nat
  | none => 0
  | some .singleA => s.capacity .a
  | some .singleB => s.capacity .b
  | some .split => s.capacity .a + s.capacity .b
  | some .mirror => s.capacity .a

/-- R114 step 1: an IDLE engine that is no channel of the mode in effect goes OFF, keeping its codes. -/
def State.retireEngine (s : State) (c : Channel) : State :=
  if (s.engine c).state = .idle ∧ s.channelInMode c = false then s.restEngine c .off else s

/-- R114: the bring-up ends: pairing decision, PAIR_FAULT, engines, link, the HELD_LINK pass, LINK_READY. -/
def Ongoing.endBringup (g : Ongoing) : Ongoing :=
  let s := g.hub
  let okA := (s.engine .a).state == .idle
  let okB := (s.engine .b).state == .idle
  let equal := (s.engine .a).typeCode == (s.engine .b).typeCode && (s.engine .a).capacityCode == (s.engine .b).capacityCode
  let mode := pairing s.setup.configuredMode okA okB equal
  let g := g.on (fun s => { s with link := { s.link with mode := mode, imageSize := s.sizeOf mode } })
  let g := if s.setup.configuredMode = .mirror ∧ mode ≠ some .mirror then g.activate .pairFault else g
  let g := g.on (fun s =>
    let t := (s.retireEngine .a).retireEngine .b
    { t with link := { t.link with state := if mode.isSome then .opened else .down } })
  (g.on (fun s => s.retakeHeld .heldLink)).on (fun s => s.raiseAll .linkReady)

/-- R114: the channel is in WAKING or IDENT. -/
def EngineState.identifying : EngineState → Bool
  | .waking => true
  | .ident => true
  | .off | .idle | .active | .fault => false

/-- R114: the bring-up ends in the event in which no enabled channel remains in WAKING or IDENT. -/
def Ongoing.checkBringup (g : Ongoing) : Ongoing :=
  if g.hub.link.state = .bringup ∧ (g.hub.engine .a).state.identifying = false
      ∧ (g.hub.engine .b).state.identifying = false then
    g.endBringup
  else g

/-- R112: a bring-up begins. -/
def Ongoing.beginBringup (g : Ongoing) : Ongoing :=
  let first := !g.hub.link.firstBringupDone
  let g := g.on (fun s =>
    (({ s with link := { s.link with state := .bringup, mode := none, imageSize := 0, firstBringupDone := true } }
      ).deactivate .pairFault).deactivate .mirrorDegraded)
  let g := if first then g else ((g.drop (fun _ => true)).on (fun s => s.raiseAll .imageLost)).retakeDue
  (g.on (fun s => (s.wakeChannel .a).wakeChannel .b)).checkBringup

/-! ### Stop (R117) -/

/-- R117: the UPDATE_OP record has not started. -/
def State.opUnstarted (s : State) : Bool := s.queue.any (fun r => r.work == .updateOp false)

/-- R117: LINK STOP taken OK. -/
def State.stopLink (s : State) : State :=
  let g := (Ongoing.start s).on (fun s =>
    { s with link := { s.link with state := .stopping } }.removeLinkDown (fun r => r.isPending && !r.isUpdateOp))
  let g := g.endPreloadsLink (fun _ _ => true)
  let g :=
    match g.hub.update.op with
    | some op => if g.hub.opUnstarted then g.endOperation op .stopped .keep false else g
    | none => g
  g.oweVictims.settle

/-! ### Takeover (R120) and release (R121) -/

/-- R120 step 2: the engine abandons its transaction and goes OFF; its alarm becomes inactive if it was in FAULT. -/
def State.abandonEngine (s : State) (c : Channel) : State :=
  let t := if (s.engine c).state = .fault then s.deactivate (channelAlarm c) else s
  t.restEngine c .off

/-- R141: the operation as a takeover ends it: the channel whose phase is in service is ABANDONED. -/
def State.abandonedOp (s : State) (op : UpdateOp) : UpdateOp :=
  match s.queue.find? Record.isUpdateOp with
  | some r =>
    match r.state with
    | .inService c => op.withOutcome c .abandoned
    | .pending => op
  | none => op

/-- R120: the takeover. -/
def Ongoing.takeover (g : Ongoing) : Ongoing :=
  let before := g.hub
  let op := before.update.op.map before.abandonedOp
  let g := g.on (fun s =>
    let t := (s.abandonEngine .a).abandonEngine .b
    { t with link := { t.link with
        state := .relinquished, takeAck := true, takeoverStopped := before.link.state == .stopped } })
  let g := g.on (fun s => (s.removeLinkDown (fun _ => true)).endDrains)
  let g := g.endPreloadsLink (fun _ _ => true)
  let g :=
    match op with
    | some op => g.endOperation op .linkLost .keep false
    | none => g
  let g := g.retakeVictims .empty
  let g := if before.link.state = .bringup then g.on (fun s => s.retakeHeld .heldLink) else g
  g.activate .linkTaken

/-- R121: the release of TAKE from RELINQUISHED. -/
def Ongoing.releaseTake (g : Ongoing) : Ongoing :=
  let g := g.on (fun s => { s with link := { s.link with takeAck := false } }.deactivate .linkTaken)
  if g.hub.link.takeoverStopped then
    ((g.on (fun s => { s with link := { s.link with state := .stopped } })).drop (fun _ => true)).on
      (fun s => s.raiseAll .imageLost)
  else g.beginBringup

end Sys2Proof.Machine
end

