-- ==== Sys2Proof/Machine/FlashEvents.lean ====
section
/-! DEFINITION. The events of the channel engines (spec 06): ends of flash transactions and expiries of the engines' timers. An
event whose transaction or timer is not running changes nothing (log entry 5). -/

namespace Sys2Proof.Machine

/-- R113: the engine enters IDENT and starts an IDENT transaction. -/
def State.startIdent (s : State) (c : Channel) : State :=
  (s.setEngine c { s.engine c with state := .ident, wakeTimer := none }).startTransaction c .ident .ident none 3 []

/-- WAKE_END (R112, R113): the wake delay starts; with a wake delay of 0 the engine enters IDENT at once. -/
def execWakeEnd (c : Channel) (s : State) : Host.Outcome State Fault Refusal :=
  hubEvent (fun s =>
    if (s.engine c).state = .waking ∧ (s.engine c).step = .wake then
      if s.setup.wakeDelay = 0 then s.startIdent c
      else s.setEngine c { s.engine c with
        step := .wakeDelay, transaction := none, wakeTimer := some (s.now + s.setup.wakeDelay.toNat) }
    else s) s

/-- WAKE_DELAY_EXPIRY (R113). -/
def execWakeDelayExpiry (c : Channel) (s : State) : Host.Outcome State Fault Refusal :=
  hubEvent (fun s =>
    match (s.engine c).wakeTimer with
    | some moment =>
      if (s.engine c).state = .waking ∧ (s.engine c).step = .wakeDelay then (s.reachMoment moment).startIdent c else s
    | none => s) s

/-- R113: the identity is bad: all three bytes FF, or the capacity byte outside 20 to 24. -/
def identityBad (maker typeCode capacity : Byte) : Bool :=
  (maker == 0xFF && typeCode == 0xFF && capacity == 0xFF) || !(20 ≤ capacity.toNat && capacity.toNat ≤ 24)

/-- R113: the engine keeps what the IDENT read and enters IDLE, or FAULT with reason IDENT_BAD. -/
def Ongoing.judgeIdentity (g : Ongoing) (c : Channel) (maker typeCode capacity : Byte) : Ongoing :=
  if identityBad maker typeCode capacity then
    (g.on (fun s => s.setEngine c { (s.engine c).restIn .fault with
      typeCode := typeCode, capacityCode := 0, faultReason := .identBad })).activate (channelAlarm c)
  else
    g.on (fun s => s.setEngine c { (s.engine c).restIn .idle with typeCode := typeCode, capacityCode := capacity })

/-- IDENT_END (R113, R114). -/
def execIdentEnd (c : Channel) (maker typeCode capacity : Byte) (s : State) : Host.Outcome State Fault Refusal :=
  hubEvent (fun s =>
    if (s.engine c).state = .ident ∧ (s.engine c).step = .ident then
      ((Ongoing.start s).judgeIdentity c maker typeCode capacity).checkBringup.settle
    else s) s

/-- R30, R31: the data of a completed fill is stored into a LIVE entry, and is not stored for a DRAINING one. -/
def State.storeFill (s : State) (f : Fill) (data : List Byte) : State :=
  if (s.entry f.entry).state = .live then s.storeChunks f.entry f.first f.count data else s

/-- R53: every waiter of the fill is answered DATA. R53 gives the waiters of one record no order; that their answers stand in
`answers` in ascending port order is the model's choice (log entry 6). -/
def State.answerWaiters (s : State) (f : Fill) (data : List Byte) : State :=
  allPorts.foldl (fun t p => if f.waiters.get p then t.answerFromFill f data p else t) s

/-- R93: a completed fill: stored, its waiters answered, its record removed, the drain ended, the engine IDLE, and what the
removal concerns handed on. The HELD_VICTIM reads are owed a pass where an entry has become eligible or the freed slot,
demand or preload, belongs to a port that holds one. -/
def State.completeFill (s : State) (c : Channel) (r : Record) (f : Fill) (data : List Byte) : State :=
  let t := ((((s.storeFill f data).answerWaiters f data).removeRecords (fun x => x.state == .inService c)).endDrain
    f.entry).restEngine c .idle
  Ongoing.settle { Ongoing.start t with victims := becameEligible s t || t.readIn r.origin .heldVictim }

/-- FILL_COMPLETE (R93): the READ of the fill in service on the channel ends with its count × 32 bytes. -/
def execFillComplete (c : Channel) (data : List Byte) (s : State) : Host.Outcome State Fault Refusal :=
  hubEvent (fun s =>
    match s.serviced c with
    | some r =>
      match r.work with
      | .fill f =>
        if (s.engine c).state = .active ∧ (s.engine c).step = .fillRead
            ∧ data.length = f.count * Config.chunkBytes then
          s.completeFill c r f data
        else s
      | .updateOp _ => s
    | none => s) s

/-- R106, R133: the 256 bytes a program phase sends: the staged byte at each written offset, FF elsewhere. -/
def UpdateController.pageBytes (u : UpdateController) : List Byte :=
  (List.range Config.pageBytes).map (fun i => if u.written.getLsbD i then u.stagingData.read i else 0xFF)

/-- ENABLE_WRITE_END (R106, R109): the engine starts PROGRAM_PAGE or ERASE_BLOCK. -/
def execEnableWriteEnd (c : Channel) (s : State) : Host.Outcome State Fault Refusal :=
  hubEvent (fun s =>
    match s.update.op with
    | some op =>
      if (s.engine c).state = .active ∧ (s.engine c).step = .enableWrite then
        match op.kind with
        | .program =>
          s.startTransaction c .programPage .programPage (some (s.flashAddress op.address c)) 0 s.update.pageBytes
        | .erase => s.startTransaction c .eraseBlock .eraseBlock (some (s.flashAddress op.address c)) 0 []
      else s
    | none => s) s

/-- R106, R109: the device works on its own: the operation timer and the poll timer start. -/
def State.startPolling (s : State) (c : Channel) (timeout : Nat) : State :=
  s.setEngine c { s.engine c with
    step := .pollWait, transaction := none
    operationTimer := some (s.now + timeout), pollTimer := some (s.now + s.setup.pollInterval.toNat) }

/-- PROGRAM_PAGE_END (R106). -/
def execProgramPageEnd (c : Channel) (s : State) : Host.Outcome State Fault Refusal :=
  hubEvent (fun s =>
    if (s.engine c).state = .active ∧ (s.engine c).step = .programPage then
      s.startPolling c (s.setup.programTimeout.toNat * Config.oneMs)
    else s) s

/-- ERASE_BLOCK_END (R109). -/
def execEraseBlockEnd (c : Channel) (s : State) : Host.Outcome State Fault Refusal :=
  hubEvent (fun s =>
    if (s.engine c).state = .active ∧ (s.engine c).step = .eraseBlock then
      s.startPolling c (s.setup.eraseTimeout.toNat * Config.tenMs)
    else s) s

/-- POLL_TIMER_EXPIRY (R106): the engine starts a READ_STATUS. -/
def execPollTimerExpiry (c : Channel) (s : State) : Host.Outcome State Fault Refusal :=
  hubEvent (fun s =>
    match (s.engine c).pollTimer with
    | some moment =>
      if (s.engine c).state = .active ∧ (s.engine c).step = .pollWait then
        let t := s.reachMoment moment
        (t.setEngine c { t.engine c with pollTimer := none }).startTransaction c .readStatus .readStatus none 1 []
      else s
    | none => s) s

/-- R104, R107: busy is seen clear: both timers stop, and the program phase goes to its verify with the fail flag noted,
while the erase phase ends. -/
def State.busyClear (s : State) (c : Channel) (op : UpdateOp) (failFlag : Bool) : State :=
  match op.kind with
  | .program =>
    (s.setEngine c { s.engine c with pollTimer := none, operationTimer := none }).startTransaction c (.verify failFlag)
      .read (some (s.flashAddress op.address c)) Config.pageBytes []
  | .erase =>
    ((Ongoing.start (s.restEngine c .idle)).endPhase c (if failFlag then .flashFail else .ok) []).settle

/-- READ_STATUS_END (R104, R107, R109). -/
def execReadStatusEnd (c : Channel) (status : Byte) (s : State) : Host.Outcome State Fault Refusal :=
  hubEvent (fun s =>
    match s.update.op with
    | some op =>
      if (s.engine c).state = .active ∧ (s.engine c).step = .readStatus then
        if status.getLsbD s.setup.busyPosition.toNat then
          s.setEngine c { s.engine c with
            step := .pollWait, transaction := none, pollTimer := some (s.now + s.setup.pollInterval.toNat) }
        else s.busyClear c op (status.getLsbD s.setup.failPosition.toNat)
      else s
    | none => s) s

/-- R108: every written position reads back as it was sent. -/
def UpdateController.verifies (u : UpdateController) (data : List Byte) : Bool :=
  (List.range Config.pageBytes).all (fun i => !u.written.getLsbD i || data[i]? == some (u.stagingData.read i))

/-- R108: the outcome of a program phase at the end of its verify. -/
def UpdateController.verifyOutcome (u : UpdateController) (failFlag : Bool) (data : List Byte) : PhaseOutcome :=
  if failFlag then .flashFail else if u.verifies data then .ok else .verifyMismatch

/-- VERIFY_READ_END (R108): the engine compares, becomes IDLE and hands the outcome and the 256 bytes over. -/
def execVerifyReadEnd (c : Channel) (data : List Byte) (s : State) : Host.Outcome State Fault Refusal :=
  hubEvent (fun s =>
    match (s.engine c).step with
    | .verify failFlag =>
      if (s.engine c).state = .active ∧ data.length = Config.pageBytes then
        ((Ongoing.start (s.restEngine c .idle)).endPhase c (s.update.verifyOutcome failFlag data) data).settle
      else s
    | _ => s) s

/-- R110: the operation timer expires before busy is seen clear: the engine enters FAULT and its alarm becomes active, the
phase ends TIMEOUT, and the Link Controller takes the fault if the link is OPEN. -/
def State.timeOut (s : State) (c : Channel) : State :=
  let before := s.link.mode
  let removed := fun r => s.link.state == .opened && s.faultRemoves c before r
  let g := (Ongoing.start s).on (fun s => s.setEngine c { (s.engine c).restIn .fault with faultReason := .timeout })
  let g := ((g.activate (channelAlarm c)).answerFaulted removed s.queue).endPhase c .timeout []
  (if g.hub.link.state = .opened then g.channelFault c before else g).settle

/-- OPERATION_TIMER_EXPIRY (R107, R110). -/
def execOperationTimerExpiry (c : Channel) (s : State) : Host.Outcome State Fault Refusal :=
  hubEvent (fun s =>
    match (s.engine c).operationTimer with
    | some moment => if (s.engine c).state = .active then (s.reachMoment moment).timeOut c else s
    | none => s) s

end Sys2Proof.Machine
end

