-- ==== Sys2Proof/Machine/Operands.lean ====
section
/-! DEFINITION. How written words are read and register words are laid out: operands (R167), writable port registers
(R168), the Shared Setup (spec 10, section 10.5). -/

namespace Sys2Proof.Machine

/-! ### Fields of a word -/

/-- The field of `length` bits of a word from bit `low` up. -/
def field (w : Word) (low length : Nat) : BitVec length := w.extractLsb' low length

/-- A word that holds a field at bit `low` and 0 elsewhere. -/
def place {n : Nat} (low : Nat) (x : BitVec n) : Word := x.setWidth 32 <<< low

/-- A word that holds a one-bit field. -/
def placeFlag (low : Nat) (b : Bool) : Word := place low (BitVec.ofBool b)

/-- A word that holds a number in a field of `length` bits. -/
def placeNumber (low length : Nat) (v : Nat) : Word := place low (BitVec.ofNat length v)

/-- A set of ports as the field it is shown in: bit n for port n. -/
def PortSet.toBits (x : PortSet) : BitVec 4 :=
  BitVec.ofBool x.p3 ++ BitVec.ofBool x.p2 ++ BitVec.ofBool x.p1 ++ BitVec.ofBool x.p0

/-! ### Operands of commands (R167) -/

/-- LOCK, UNLOCK, ERASE, STAGE OPEN, DIR PICK: the whole word, unsigned. -/
def operandNumber (w : Word) : Nat := w.toNat

/-- PRELOAD: bits 30:0 are the block number. -/
def preloadBlock (w : Word) : Nat := (field w 0 31).toNat

/-- PRELOAD: bit 31 is the lock flag. -/
def preloadLockFlag (w : Word) : Bool := w.getLsbD 31

/-! ### Writable port registers (R168, layouts of 10.4) -/

/-- R160: a write to FENCE; the fenced flag's bit is ignored. -/
def PortState.writeFence (x : PortState) (w : Word) : PortState :=
  { x with autoFence := w.getLsbD 0, fenceMask := field w 8 5 }

/-- R164: a write to NOTICE_ENABLE. -/
def PortState.writeNoticeEnable (x : PortState) (w : Word) : PortState :=
  { x with enables := field w 0 8, vectorShift := field w 8 3, vectorBase := field w 16 16 }

/-- R62: a write to PORT_SETTINGS. -/
def PortState.writeSettings (x : PortState) (w : Word) : PortState :=
  { x with holdLimit := field w 0 12, burst := w.getLsbD 16 }

/-- R159: a write to ALARMS clears the latched flags written one. -/
def PortState.writeAlarms (x : PortState) (w : Word) : PortState :=
  { x with latched := x.latched &&& ~~~(field w 8 5) }

/-- R163: a write to NOTICE_PENDING clears the pending and repeat flags written one. -/
def PortState.writeNoticePending (x : PortState) (w : Word) : PortState :=
  { x with pendingNotices := x.pendingNotices &&& ~~~(field w 0 8), repeats := x.repeats &&& ~~~(field w 8 8) }

/-! ### The Shared Setup words (10.5) -/

/-- 10.5: configured mode: 0 SINGLE, 1 SPLIT, 2 MIRROR; 3 is no mode. -/
def ConfiguredMode.ofBits (x : BitVec 2) : Option ConfiguredMode :=
  if x = 0 then some .single else if x = 1 then some .split else if x = 2 then some .mirror else none

/-- 10.5: the encoding of a configured mode. -/
def ConfiguredMode.toBits : ConfiguredMode → BitVec 2
  | .single => 0
  | .split => 1
  | .mirror => 2

/-- 10.5: attach source, 0 PIN and 1 SETUP. -/
def AttachSource.ofBit (b : Bool) : AttachSource := if b then .setup else .pin

/-- The encoding of an attach source. -/
def AttachSource.toBit : AttachSource → Bool
  | .pin => false
  | .setup => true

/-- The port whose fields a Shared Setup word holds, words 7 to 10. -/
def setupWordPort (index : Fin 16) : Option Port :=
  match index.val with
  | 7 => some .cp0
  | 8 => some .cp1
  | 9 => some .cp2
  | 10 => some .cp3
  | _ => none

/-- R151: words 0 to 5 are link setup words. -/
def isLinkWord (index : Fin 16) : Bool := index.val < 6

/-- 10.5: the bits of a word that hold a field. -/
def setupFieldMask (index : Fin 16) : Word :=
  match index.val with
  | 0 => 0x003F0F33
  | 1 => 0x00FF03FF
  | 2 => 0x0000FF3F
  | 3 => 0x00000077
  | 4 => 0xFFFFFFFF
  | 5 => 0x00FFFFFF
  | 6 => 0x000000FF
  | 7 | 8 | 9 | 10 => 0x00030F03
  | _ => 0

/-- R152 check 3, R169: every field of the written value is in its range, and no bit outside the fields is one. -/
def setupValueInRange (index : Fin 16) (w : Word) : Bool :=
  (w &&& ~~~(setupFieldMask index)) == 0 &&
    (match index.val with
     | 0 => (ConfiguredMode.ofBits (field w 0 2)).isSome && field w 8 4 != 0 && field w 16 6 != 0
     | 1 => field w 16 8 != 0
     | 2 => field w 0 6 != 0 && field w 8 8 != 0
     | 7 | 8 | 9 | 10 => (field w 8 4).toNat ≤ 12
     | _ => true)

/-- 10.5: the fields of a per-port word. -/
def PortSetup.ofWord (w : Word) : PortSetup :=
  { level := field w 0 2, quota := field w 8 4, source := .ofBit (w.getLsbD 16), attachBit := w.getLsbD 17 }

/-- 10.5: the layout of a per-port word. -/
def PortSetup.toWord (x : PortSetup) : Word :=
  place 0 x.level ||| place 8 x.quota ||| placeFlag 16 x.source.toBit ||| placeFlag 17 x.attachBit

/-- R152: every field of the word takes its written value. -/
def Setup.write (x : Setup) (index : Fin 16) (w : Word) : Setup :=
  match index.val with
  | 0 =>
    { x with
      configuredMode := (ConfiguredMode.ofBits (field w 0 2)).getD x.configuredMode
      enableA := w.getLsbD 4, enableB := w.getLsbD 5, linkTiming := field w 8 4, tbDiv := field w 16 6 }
  | 1 => { x with wakeDelay := field w 0 10, pollInterval := field w 16 8 }
  | 2 => { x with programTimeout := field w 0 6, eraseTimeout := field w 8 8 }
  | 3 => { x with busyPosition := field w 0 3, failPosition := field w 4 3 }
  | 4 =>
    { x with
      wakeCommand := field w 0 8, identCommand := field w 8 8, readCommand := field w 16 8
      enableWriteCommand := field w 24 8 }
  | 5 =>
    { x with
      programPageCommand := field w 0 8, eraseBlockCommand := field w 8 8, readStatusCommand := field w 16 8 }
  | 6 => { x with grantTimeout := field w 0 8 }
  | 7 => { x with ports := x.ports.set .cp0 (.ofWord w) }
  | 8 => { x with ports := x.ports.set .cp1 (.ofWord w) }
  | 9 => { x with ports := x.ports.set .cp2 (.ofWord w) }
  | 10 => { x with ports := x.ports.set .cp3 (.ofWord w) }
  | _ => x

/-- 10.5: the value a word of the Shared Setup reads as. -/
def Setup.word (x : Setup) (index : Fin 16) : Word :=
  match index.val with
  | 0 =>
    place 0 x.configuredMode.toBits ||| placeFlag 4 x.enableA ||| placeFlag 5 x.enableB ||| place 8 x.linkTiming |||
      place 16 x.tbDiv
  | 1 => place 0 x.wakeDelay ||| place 16 x.pollInterval
  | 2 => place 0 x.programTimeout ||| place 8 x.eraseTimeout
  | 3 => place 0 x.busyPosition ||| place 4 x.failPosition
  | 4 => place 0 x.wakeCommand ||| place 8 x.identCommand ||| place 16 x.readCommand ||| place 24 x.enableWriteCommand
  | 5 => place 0 x.programPageCommand ||| place 8 x.eraseBlockCommand ||| place 16 x.readStatusCommand
  | 6 => place 0 x.grantTimeout
  | 7 => (x.ports.get .cp0).toWord
  | 8 => (x.ports.get .cp1).toWord
  | 9 => (x.ports.get .cp2).toWord
  | 10 => (x.ports.get .cp3).toWord
  | _ => 0

end Sys2Proof.Machine
end

