-- ==== Sys2Proof/Machine/Attach.lean ====
section
/-! DEFINITION. Attachment of ports (spec 08): the attach condition, detach, attach, a performed Shared Setup write, hub
reset. -/

namespace Sys2Proof.Machine

/-- R147: the attach condition: PORT_EN with source PIN, the attach bit with source SETUP. -/
def State.attachCondition (s : State) (p : Port) : Bool :=
  match (s.portSetup p).source with
  | .pin => (s.port p).portEn
  | .setup => (s.portSetup p).attachBit

/-- R149 step 6: every per-port register returns to its reset value; the line and the attach state stay. -/
def PortState.clearRegisters (x : PortState) : PortState :=
  { PortState.afterReset x.portEn with attached := x.attached, read := x.read }

/-- R149 step 5, R128: the grant at the detach of the holder's port: released when no operation exists, orphaned when one
does. -/
def State.detachGrant (s : State) (p : Port) : State :=
  if s.isHolder p then
    if s.update.op.isSome then { s with update := { s.update with orphaned := true, grantTimer := none } }
    else s.releaseGrant
  else s

/-- R149: the port detaches; every HELD_VICTIM read of the other ports is owed a pass. -/
def Ongoing.detach (g : Ongoing) (p : Port) : Ongoing :=
  let g := g.on (fun s =>
    (s.setPort p { s.port p with attached := false, read := none }).leaveRecords p)
  let g := g.endPreload p .detached
  let g := g.on (fun s =>
    let t := (s.removeAllHolds p).detachGrant p
    t.setPort p (t.port p).clearRegisters)
  g.oweVictims

/-- R150: the port attaches; its registers hold their reset values already. -/
def State.attach (s : State) (p : Port) : State := s.setPort p { s.port p with attached := true }

/-- R148: the attach state follows the attach condition. -/
def State.followAttach (s : State) (p : Port) : State :=
  if (s.port p).attached then
    if s.attachCondition p then s else ((Ongoing.start s).detach p).settle
  else if s.attachCondition p then s.attach p else s

/-- R153, R154: a performed Shared Setup write and its consequences: the fields, the levels of records the port takes part
in, the attach state. -/
def State.performSetupWrite (s : State) (index : Fin 16) (w : Word) : State :=
  let t := { s with setup := s.setup.write index w }
  match setupWordPort index with
  | some q => (t.recomputeLevels q).followAttach q
  | none => t

/-- R152: the checks of a Shared Setup write, in order; none when it is performed. -/
def State.setupWriteRefusal (s : State) (p : Port) (index : Fin 16) (w : Word) : Option ResultCode :=
  if !s.isHolder p then some .notGranted
  else if isLinkWord index && s.link.state != .stopped then some .linkRunning
  else if !setupValueInRange index w then some .badValue
  else none

/-! ### Hub reset (R156) -/

/-- R5: the configured mode that a strap value sets. -/
def strapMode (straps : BitVec 2) : ConfiguredMode :=
  if straps = 1 then .split else if straps = 2 then .mirror else .single

/-- R156: HUB_RESET is asserted: outstanding reads and records are discarded without an answer, and the engines abandon
their flash work. TAKE_ACK is inactive. Every other block takes its reset values when the pin rises. -/
def State.assertReset (s : State) : State :=
  let t := allPorts.foldl (fun t p => t.setRead p none) { s with inReset := true, queue := [] }
  let t := (t.restEngine .a .off).restEngine .b .off
  { t with link := { t.link with takeAck := false } }

/-- R156 steps 1 to 3: every block at its reset value, the straps sampled, the attach states set from the PORT_EN lines.
The bytes of the chunk store and of the staging data stay (R39, R123), and so do the levels of the input pins. The link
is STOPPED until the bring-up that other straps than HOLD call for begins. -/
def State.resetValues (s : State) (straps : BitVec 2) : State :=
  { inReset := false
    ports :=
      ⟨.afterReset (s.port .cp0).portEn, .afterReset (s.port .cp1).portEn,
        .afterReset (s.port .cp2).portEn, .afterReset (s.port .cp3).portEn⟩
    entries := Vector.replicate 16 .cleared
    lru := allEntries
    chunks := s.chunks
    queue := []
    engines := ⟨.afterReset, .afterReset⟩
    link :=
      { state := .stopped, mode := none, imageSize := 0, strap := straps, takeoverStopped := false,
        firstBringupDone := false, takeLine := s.link.takeLine, takeAck := false }
    update := .afterReset s.update.stagingData
    setup := .afterReset (strapMode straps)
    alarms := 0
    now := 0
    refclkCount := 0
    answers := []
    pending := s.pending }

/-- R156, R122: the end of hub reset: reset values, the bring-up unless the straps are at HOLD, and the takeover if TAKE is
asserted. -/
def State.endReset (s : State) (straps : BitVec 2) : State :=
  let g := Ongoing.start (s.resetValues straps)
  let g := if straps = 3 then g else g.beginBringup
  (if s.link.takeLine then g.takeover else g).settle

end Sys2Proof.Machine
end

