-- ==== Sys2Proof/Machine/LinkCommands.lean ====
section
/-! DEFINITION. LINK STOP, LINK START and the lines: TAKE, HUB_RESET, PORT_EN (spec 06, spec 08). -/

namespace Sys2Proof.Machine

/-- LINK STOP (R117), at offset 70h; the written word is ignored. -/
def execLinkStop (p : Port) (_word : Word) (s : State) : Host.Outcome State Fault Refusal :=
  command 0x70 p (fun s =>
    if !s.isHolder p then (s, .notGranted)
    else if s.link.state ≠ .opened ∧ s.link.state ≠ .down then (s, .linkRunning)
    else (s.stopLink, .ok)) s

/-- LINK START (R119), at offset 74h; the written word is ignored. -/
def execLinkStart (p : Port) (_word : Word) (s : State) : Host.Outcome State Fault Refusal :=
  command 0x74 p (fun s =>
    if !s.isHolder p then (s, .notGranted)
    else if s.link.state ≠ .stopped then (s, .linkRunning)
    else ((Ongoing.start s).beginBringup.settle, .ok)) s

/-- TAKE_ASSERT (R120): the takeover, unless the link is RELINQUISHED already. While HUB_RESET is low only the line's level
is kept (R122, R156). -/
def execTakeAssert (s : State) : Host.Outcome State Fault Refusal :=
  .next (
    let t := { s.quiet with link := { s.link with takeLine := true } }
    if s.inReset || s.link.state == .relinquished then t else (Ongoing.start t).takeover.settle)

/-- TAKE_RELEASE (R121): taken only in RELINQUISHED. -/
def execTakeRelease (s : State) : Host.Outcome State Fault Refusal :=
  .next (
    let t := { s.quiet with link := { s.link with takeLine := false } }
    if s.inReset || s.link.state != .relinquished then t else (Ongoing.start t).releaseTake.settle)

/-- HUB_RESET_ASSERT (R156). -/
def execHubResetAssert (s : State) : Host.Outcome State Fault Refusal := .next s.quiet.assertReset

/-- HUB_RESET_END (R156): the end of hub reset with the straps as sampled. -/
def execHubResetEnd (straps : BitVec 2) (s : State) : Host.Outcome State Fault Refusal := .next (s.endReset straps)

/-- PORT_EN_CHANGE (R148): the line takes its level; with source PIN the port attaches or detaches. -/
def execPortEnChange (p : Port) (high : Bool) (s : State) : Host.Outcome State Fault Refusal :=
  .next (
    let t := s.quiet.setPort p { s.port p with portEn := high }
    if s.inReset then t else t.followAttach p)

end Sys2Proof.Machine
end

