-- ==== Sys2Proof/Machine/LockCommands.lean ====
section
/-! DEFINITION. LOCK, UNLOCK, UNLOCK ALL, PRELOAD, PRELOAD CANCEL and DIR PICK (spec 04, spec 02 section 2.9). -/

namespace Sys2Proof.Machine

/-- R64, R67: the port's hold count is at or above its quota. -/
def State.atQuota (s : State) (p : Port) : Bool := (s.portSetup p).quota.toNat ≤ s.holdCount p

/-- R64: the locked count stands at the global limit. -/
def State.lockedFull (s : State) : Bool := Config.globalLimit ≤ s.lockedCount

/-- R65: the checks of LOCK in order, and its effect. -/
def State.lock (s : State) (p : Port) (block : Nat) : State × ResultCode :=
  if !s.blockInRange block then (s, .range)
  else if s.eraseTargets block then (s, .heldForUpdate)
  else
    match s.findBlock block with
    | some e =>
      if (s.entry e).holders.get p then (s.moveToMru e, .ok)
      else if s.atQuota p then (s, .quota)
      else if (s.entry e).locked then ((s.addHolder e p).moveToMru e, .ok)
      else if s.lockedFull then (s, .full)
      else ((s.addHolder e p).moveToMru e, .ok)
    | none =>
      if s.atQuota p then (s, .quota)
      else if s.lockedFull then (s, .full)
      else
        match s.victim with
        | none => (s, .noEntry)
        | some e => ((s.allocate e block).addHolder e p, .ok)

/-- LOCK (R65, R66), at offset 40h. -/
def execLock (p : Port) (word : Word) (s : State) : Host.Outcome State Fault Refusal :=
  command 0x40 p (fun s => s.lock p (operandNumber word)) s

/-- The HELD_VICTIM pass that a change of holder sets owes when an entry became eligible (R27, R68, R69). -/
def State.afterUnlock (before after : State) : State :=
  if becameEligible before after then (Ongoing.start after).oweVictims.settle else after

/-- R68: the steps of UNLOCK. -/
def State.unlock (s : State) (p : Port) (block : Nat) : State × ResultCode :=
  if !s.blockInRange block then (s, .range)
  else
    match s.heldEntry p block with
    | none => (s, .notHeld)
    | some e => (s.afterUnlock (s.removeHolder e p), .ok)

/-- UNLOCK (R68), at offset 44h. -/
def execUnlock (p : Port) (word : Word) (s : State) : Host.Outcome State Fault Refusal :=
  command 0x44 p (fun s => s.unlock p (operandNumber word)) s

/-- UNLOCK ALL (R69), at offset 48h; the written word is ignored. -/
def execUnlockAll (p : Port) (_word : Word) (s : State) : Host.Outcome State Fault Refusal :=
  command 0x48 p (fun s => (s.afterUnlock (s.removeAllHolds p), .ok)) s

/-- R72: the refusal of a PRELOAD, checks 1 to 9 in order. -/
def State.preloadRefusal (s : State) (p : Port) (block : Nat) (lockFlag : Bool) : Option ResultCode :=
  let found := s.findBlock block
  let takesHold := lockFlag && (s.heldEntry p block).isNone
  if (s.port p).fenced then some .fenced
  else if (s.port p).preload.running then some .busy
  else if !s.blockInRange block then some .range
  else if s.link.state ≠ .opened ∨ s.hasUsableChannel (chunkAddress block 0) = false then some .linkDown
  else if s.eraseTargets block then some .heldForUpdate
  else if found.any (fun e => (s.entry e).owner.isSome) then some .busy
  else if takesHold && s.atQuota p then some .quota
  else if takesHold && !found.any (fun e => (s.entry e).locked) && s.lockedFull then some .full
  else if found.isNone && s.victim.isNone then some .noEntry
  else none

/-- R73 steps 1 to 6: the PRELOAD is taken on entry `e`. -/
def State.startPreload (s : State) (p : Port) (e : Fin 16) (block : Nat) (lockFlag : Bool) : State :=
  let s := if lockFlag then s.addHolder e p else s
  let s := (s.setEntry e { s.entry e with owner := some p }).moveToMru e
  s.setPort p { s.port p with preload :=
    { (s.port p).preload with running := true, block := block, entry := e, lockTaken := lockFlag } }

/-- R73 step 1: the entry of the block, allocated when the block is absent. -/
def State.entryForBlock (s : State) (block : Nat) : Option (State × Fin 16) :=
  match s.findBlock block with
  | some e => some (s, e)
  | none => s.victim.map (fun e => (s.allocate e block, e))

/-- R72, R73: PRELOAD, its checks and its effect; at step 7 the cursor acts. -/
def State.preload (s : State) (p : Port) (block : Nat) (lockFlag : Bool) : State × ResultCode :=
  match s.preloadRefusal p block lockFlag with
  | some code => (s, code)
  | none =>
    match s.entryForBlock block with
    | some (t, e) => ((Ongoing.start (t.startPreload p e block lockFlag)).settle, .ok)
    | none => (s, .noEntry)

/-- PRELOAD (R72, R73), at offset 4Ch. -/
def execPreload (p : Port) (word : Word) (s : State) : Host.Outcome State Fault Refusal :=
  command 0x4C p (fun s => s.preload p (preloadBlock word) (preloadLockFlag word)) s

/-- PRELOAD CANCEL (R78), at offset 50h; the written word is ignored. -/
def execPreloadCancel (p : Port) (_word : Word) (s : State) : Host.Outcome State Fault Refusal :=
  command 0x50 p (fun s =>
    if (s.port p).preload.running then (((Ongoing.start s).endPreload p .cancelled).settle, .ok) else (s, .notHeld)) s

/-- DIR PICK (R37, R38), at offset 7Ch. -/
def execDirPick (p : Port) (word : Word) (s : State) : Host.Outcome State Fault Refusal :=
  command 0x7C p (fun s =>
    if h : operandNumber word < 16 then
      (s.setPort p { s.port p with snapshot := s.snapshotOf ⟨operandNumber word, h⟩ }, .ok)
    else (s, .range)) s

end Sys2Proof.Machine
end

