-- ==== Sys2Proof/Machine/PortWrites.lean ====
section
/-! DEFINITION. Writes of port registers and of the Shared Setup, FENCE CLEAR, and the other control-window accesses (R152,
R160 to R168). -/

namespace Sys2Proof.Machine

/-- FENCE CLEAR (R162), at offset 78h; the written word is ignored. -/
def execFenceClear (p : Port) (_word : Word) (s : State) : Host.Outcome State Fault Refusal :=
  command 0x78 p (fun s =>
    if (s.port p).autoFence && s.unmaskedAlarm p then (s, .alarmActive)
    else (s.setPort p { s.port p with fenced := false }, .ok)) s

/-- FENCE_WRITE (R160). -/
def execFenceWrite (p : Port) (word : Word) (s : State) : Host.Outcome State Fault Refusal :=
  registerWrite p (fun x => x.writeFence word) s

/-- NOTICE_ENABLE_WRITE (R164). -/
def execNoticeEnableWrite (p : Port) (word : Word) (s : State) : Host.Outcome State Fault Refusal :=
  registerWrite p (fun x => x.writeNoticeEnable word) s

/-- PORT_SETTINGS_WRITE (R62). -/
def execPortSettingsWrite (p : Port) (word : Word) (s : State) : Host.Outcome State Fault Refusal :=
  registerWrite p (fun x => x.writeSettings word) s

/-- ALARMS_WRITE (R159). -/
def execAlarmsWrite (p : Port) (word : Word) (s : State) : Host.Outcome State Fault Refusal :=
  registerWrite p (fun x => x.writeAlarms word) s

/-- NOTICE_PENDING_WRITE (R163). -/
def execNoticePendingWrite (p : Port) (word : Word) (s : State) : Host.Outcome State Fault Refusal :=
  registerWrite p (fun x => x.writeNoticePending word) s

/-- R167, R169: the offset of a Shared Setup word. -/
def setupOffset (index : Fin 16) : Byte := BitVec.ofNat 8 (0xC0 + 4 * index.val)

/-- SHARED_SETUP_WRITE (R152, R153). RESULT is set before the consequences, so that a port that detaches itself is left
with the reset value of RESULT (R148). -/
def execSharedSetupWrite (p : Port) (index : Fin 16) (word : Word) (s : State) : Host.Outcome State Fault Refusal :=
  .next (if s.busFree p then
      (match s.setupWriteRefusal p index word with
       | some code => (s.quiet.setResult p code (setupOffset index)).touchGrant p
       | none => ((s.quiet.setResult p .ok (setupOffset index)).performSetupWrite index word).touchGrant p).answer p .done
    else s.quiet)

/-- CONTROL_WRITE_IGNORED (R166): answered DONE; the written data is discarded. -/
def execControlWriteIgnored (p : Port) (_offset : Byte) (_word : Word) (s : State) : Host.Outcome State Fault Refusal :=
  registerWrite p (fun x => x) s

/-- CONTROL_UNALIGNED_ACCESS (R166): answered ERROR UNALIGNED; LAST_ERROR takes the offset as presented. -/
def execControlUnalignedAccess (p : Port) (offset : Byte) (_size : Nat) (s : State) :
    Host.Outcome State Fault Refusal :=
  .next (if s.busFree p then s.quiet.answerError p .unaligned (offset.setWidth 25) else s.quiet)

end Sys2Proof.Machine
end

