-- ==== Sys2Proof/Machine/ReadCommands.lean ====
section
/-! DEFINITION. The image window: IMAGE_READ, IMAGE_WRITE, and the deadline of an outstanding read. -/

namespace Sys2Proof.Machine

/-- R59: the deadline of a read that arrives now; absent when the port's hold limit is 0. -/
def State.arrivalDeadline (s : State) (p : Port) : Option Nat :=
  if (s.port p).holdLimit = 0 then none else some (s.now + (s.port p).holdLimit.toNat)

/-- IMAGE_READ (R42, R43): a malformed read is answered ERROR UNALIGNED; a well-formed one is evaluated from step 3. -/
def execImageRead (p : Port) (address : ImageAddress) (beats : Nat) (s : State) : Host.Outcome State Fault Refusal :=
  .next (if s.busFree p then
      if readWellFormed address.toNat beats then
        (s.quiet.takeRead p address beats (s.arrivalDeadline p)).dispatch
      else s.quiet.answerError p .unaligned address
    else s.quiet)

/-- R130 check 4: the write is a single access, of 1, 2 or 4 bytes, aligned to its size. -/
def writeAligned (x : Nat) (accesses : List (List Byte)) : Bool :=
  match accesses with
  | [bytes] => bytes.length == 1 || (bytes.length == 2 && x % 2 == 0) || (bytes.length == 4 && x % 4 == 0)
  | _ => false

/-- R130: the refusal of an image-window write at an attached port, checks 2 to 6 in order. -/
def State.writeRefusal (s : State) (p : Port) (x : Nat) (accesses : List (List Byte)) : Option ErrorReason :=
  if !s.isHolder p then some .notGranted
  else
    match s.update.stagedPage with
    | none => some .notStaged
    | some page =>
      if !writeAligned x accesses then some .unaligned
      else if !(page ≤ x && x < page + Config.pageBytes) then some .stageRange
      else if s.update.op.isSome then some .busy
      else none

/-- The written map with the flags of `length` offsets from `offset` set. -/
def writtenMask (offset length : Nat) : BitVec 256 := BitVec.ofNat 256 ((2 ^ length - 1) * 2 ^ offset)

/-- R130: the written bytes are placed in the staging data at their offsets, and their written flags are set. -/
def State.stageBytes (s : State) (x : Nat) (bytes : List Byte) : State :=
  { s with update := { s.update with
      stagingData := s.update.stagingData.writeRange (x % Config.pageBytes) bytes
      written := s.update.written ||| writtenMask (x % Config.pageBytes) bytes.length } }

/-- IMAGE_WRITE (R130): a write that passes the checks is a single access, and its bytes are staged. Any write from the
holder restarts the grant timer (R126). -/
def execImageWrite (p : Port) (address : ImageAddress) (accesses : List (List Byte)) (s : State) :
    Host.Outcome State Fault Refusal :=
  .next (if s.busFree p then
      (match s.writeRefusal p address.toNat accesses with
       | some reason => s.quiet.answerError p reason address
       | none => (s.quiet.stageBytes address.toNat accesses.flatten).answer p .done).touchGrant p
    else s.quiet)

/-- READ_DEADLINE (R60): the read whose deadline is reached is answered RETRY; a waiter leaves its record, which goes on.
LAST_ERROR is not changed. -/
def execReadDeadline (p : Port) (s : State) : Host.Outcome State Fault Refusal :=
  hubEvent (fun s =>
    match (s.port p).read with
    | some r =>
      match r.deadline with
      | some moment => (((s.reachMoment moment).setRead p none).leaveRecords p).answer p .retry
      | none => s
    | none => s) s

end Sys2Proof.Machine
end

