-- ==== Sys2Proof/Machine/UpdateCommands.lean ====
section
/-! DEFINITION. The update grant and what it admits: CLAIM, RELEASE, STAGE OPEN, PROGRAM, ERASE, DROP UNLOCKED, DROP ALL, and
the grant timer's expiry (spec 07). -/

namespace Sys2Proof.Machine

/-- CLAIM (R124), at offset 54h; the written word is ignored. The holder's grant timer (re)starts as for every command from
the holder (R126). -/
def execClaim (p : Port) (_word : Word) (s : State) : Host.Outcome State Fault Refusal :=
  command 0x54 p (fun s =>
    if s.update.holder = none then ({ s with update := { s.update with holder := some p } }, .ok)
    else if s.isHolder p then (s, .ok)
    else (s, .grantHeld)) s

/-- RELEASE (R125), at offset 58h. -/
def execRelease (p : Port) (_word : Word) (s : State) : Host.Outcome State Fault Refusal :=
  command 0x58 p (fun s =>
    if !s.isHolder p then (s, .notGranted)
    else if s.update.op.isSome then (s, .busy)
    else (s.releaseGrant, .ok)) s

/-- STAGE OPEN (R129), at offset 5Ch. -/
def execStageOpen (p : Port) (word : Word) (s : State) : Host.Outcome State Fault Refusal :=
  command 0x5C p (fun s =>
    if !s.isHolder p then (s, .notGranted)
    else if s.update.op.isSome then (s, .busy)
    else if !(operandNumber word % Config.pageBytes == 0 && operandNumber word < s.link.imageSize) then (s, .range)
    else ({ s with update := { s.update with stagedPage := some (operandNumber word), written := 0 } }, .ok)) s

/-- R132: the checks common to PROGRAM and ERASE, in order. -/
def State.updateRefusal (s : State) (p : Port) : Option ResultCode :=
  if !s.isHolder p then some .notGranted
  else if s.update.op.isSome then some .busy
  else if (s.port p).fenced then some .fenced
  else none

/-- R135 step 1: a new operation record. -/
def newOp (kind : OpKind) (target : Nat) (origin : Port) (phases : Phases) : UpdateOp :=
  { kind := kind, target := target, origin := origin, phases := phases, current := .first, outcomeA := .none,
    outcomeB := .none, verifyA := none }

/-- R12: the link is not OPEN, or the unit at the address has no usable channel. -/
def State.noWayToFlash (s : State) (x : Nat) : Bool := s.link.state != .opened || !s.hasUsableChannel x

/-- R133: the checks of PROGRAM after the common ones. -/
def State.program (s : State) (p : Port) : State × ResultCode :=
  match s.updateRefusal p with
  | some code => (s, code)
  | none =>
    match s.update.stagedPage with
    | none => (s, .notStaged)
    | some page =>
      if s.update.written = 0 then (s, .notStaged)
      else if s.link.imageSize ≤ page then (s, .range)
      else if s.noWayToFlash page then (s, .linkDown)
      else (s.accept (newOp .program page p (s.phasesOf page)), .ok)

/-- PROGRAM (R133), at offset 60h; the written word is ignored. -/
def execProgram (p : Port) (_word : Word) (s : State) : Host.Outcome State Fault Refusal :=
  command 0x60 p (fun s => s.program p) s

/-- R134: the checks of ERASE after the common ones. -/
def State.erase (s : State) (p : Port) (block : Nat) : State × ResultCode :=
  match s.updateRefusal p with
  | some code => (s, code)
  | none =>
    if !s.blockInRange block then (s, .range)
    else if s.noWayToFlash (chunkAddress block 0) then (s, .linkDown)
    else (s.accept (newOp .erase block p (s.phasesOf (chunkAddress block 0))), .ok)

/-- ERASE (R134), at offset 64h. -/
def execErase (p : Port) (word : Word) (s : State) : Host.Outcome State Fault Refusal :=
  command 0x64 p (fun s => s.erase p (operandNumber word)) s

/-- R145, R146: the refusal of a drop command, NOT_GRANTED before BUSY. -/
def State.dropRefusal (s : State) (p : Port) : Option ResultCode :=
  if !s.isHolder p then some .notGranted else if s.update.op.isSome then some .busy else none

/-- R145: the entry is dropped by DROP UNLOCKED: LIVE with an empty holder set. -/
def State.droppedUnlocked (s : State) (e : Fin 16) : Bool := (s.entry e).state == .live && !(s.entry e).locked

/-- DROP UNLOCKED (R145), at offset 68h. -/
def execDropUnlocked (p : Port) (_word : Word) (s : State) : Host.Outcome State Fault Refusal :=
  command 0x68 p (fun s =>
    match s.dropRefusal p with
    | some code => (s, code)
    | none => (((Ongoing.start s).drop s.droppedUnlocked).settle, .ok)) s

/-- R146: raise IMAGE_LOST to each attached port that held at least one lock in `before`. -/
def State.raiseLostLocks (s before : State) : State :=
  allPorts.foldl (fun t p => if 0 < before.holdCount p then t.raise p .imageLost else t) s

/-- DROP ALL (R146), at offset 6Ch. -/
def execDropAll (p : Port) (_word : Word) (s : State) : Host.Outcome State Fault Refusal :=
  command 0x6C p (fun s =>
    match s.dropRefusal p with
    | some code => (s, code)
    | none => ((((Ongoing.start s).drop (fun _ => true)).on (fun t => t.raiseLostLocks s)).settle, .ok)) s

/-- GRANT_TIMER_EXPIRY (R127): the holder becomes absent, the staging buffer is closed, GRANT_EXPIRED is raised to the
former holder. -/
def execGrantTimerExpiry (s : State) : Host.Outcome State Fault Refusal :=
  hubEvent (fun s =>
    match s.update.grantTimer, s.update.holder with
    | some moment, some p => ((s.reachMoment moment).releaseGrant).raise p .grantExpired
    | _, _ => s) s

end Sys2Proof.Machine
end

