-- ==== Sys2Proof/Machine/Dispatch.lean ====
section
/-! DEFINITION. The meaning of each row of the opcode table: one arm, one direct call. -/

namespace Sys2Proof.Machine

def exec (i : Instr) (s : State) : Host.Outcome State Fault Refusal :=
  match i with
  | .imageRead p address beats => Sys2Proof.Machine.execImageRead p address beats s
  | .imageWrite p address accesses => Sys2Proof.Machine.execImageWrite p address accesses s
  | .lock p word => Sys2Proof.Machine.execLock p word s
  | .unlock p word => Sys2Proof.Machine.execUnlock p word s
  | .unlockAll p word => Sys2Proof.Machine.execUnlockAll p word s
  | .preload p word => Sys2Proof.Machine.execPreload p word s
  | .preloadCancel p word => Sys2Proof.Machine.execPreloadCancel p word s
  | .claim p word => Sys2Proof.Machine.execClaim p word s
  | .release p word => Sys2Proof.Machine.execRelease p word s
  | .stageOpen p word => Sys2Proof.Machine.execStageOpen p word s
  | .program p word => Sys2Proof.Machine.execProgram p word s
  | .erase p word => Sys2Proof.Machine.execErase p word s
  | .dropUnlocked p word => Sys2Proof.Machine.execDropUnlocked p word s
  | .dropAll p word => Sys2Proof.Machine.execDropAll p word s
  | .linkStop p word => Sys2Proof.Machine.execLinkStop p word s
  | .linkStart p word => Sys2Proof.Machine.execLinkStart p word s
  | .fenceClear p word => Sys2Proof.Machine.execFenceClear p word s
  | .dirPick p word => Sys2Proof.Machine.execDirPick p word s
  | .fenceWrite p word => Sys2Proof.Machine.execFenceWrite p word s
  | .noticeEnableWrite p word => Sys2Proof.Machine.execNoticeEnableWrite p word s
  | .portSettingsWrite p word => Sys2Proof.Machine.execPortSettingsWrite p word s
  | .alarmsWrite p word => Sys2Proof.Machine.execAlarmsWrite p word s
  | .noticePendingWrite p word => Sys2Proof.Machine.execNoticePendingWrite p word s
  | .sharedSetupWrite p index word => Sys2Proof.Machine.execSharedSetupWrite p index word s
  | .controlWriteIgnored p offset word => Sys2Proof.Machine.execControlWriteIgnored p offset word s
  | .controlUnalignedAccess p offset size => Sys2Proof.Machine.execControlUnalignedAccess p offset size s
  | .portEnChange p high => Sys2Proof.Machine.execPortEnChange p high s
  | .takeAssert => Sys2Proof.Machine.execTakeAssert s
  | .takeRelease => Sys2Proof.Machine.execTakeRelease s
  | .hubResetAssert => Sys2Proof.Machine.execHubResetAssert s
  | .hubResetEnd straps => Sys2Proof.Machine.execHubResetEnd straps s
  | .readDeadline p => Sys2Proof.Machine.execReadDeadline p s
  | .grantTimerExpiry => Sys2Proof.Machine.execGrantTimerExpiry s
  | .wakeDelayExpiry c => Sys2Proof.Machine.execWakeDelayExpiry c s
  | .pollTimerExpiry c => Sys2Proof.Machine.execPollTimerExpiry c s
  | .operationTimerExpiry c => Sys2Proof.Machine.execOperationTimerExpiry c s
  | .wakeEnd c => Sys2Proof.Machine.execWakeEnd c s
  | .identEnd c maker typeCode capacity => Sys2Proof.Machine.execIdentEnd c maker typeCode capacity s
  | .fillComplete c data => Sys2Proof.Machine.execFillComplete c data s
  | .enableWriteEnd c => Sys2Proof.Machine.execEnableWriteEnd c s
  | .programPageEnd c => Sys2Proof.Machine.execProgramPageEnd c s
  | .eraseBlockEnd c => Sys2Proof.Machine.execEraseBlockEnd c s
  | .readStatusEnd c status => Sys2Proof.Machine.execReadStatusEnd c status s
  | .verifyReadEnd c data => Sys2Proof.Machine.execVerifyReadEnd c data s

end Sys2Proof.Machine
end

