-- ==== Sys2Proof/Machine/Registers.lean ====
section
/-! DEFINITION. What software sees: the registers of the control window as they read (R166, layouts of spec 10, section 10.4).
Reads have no row in the opcode table and no side effect; they are views of the state. -/

namespace Sys2Proof.Machine

/-! ### Encodings (tables 10-1 to 10-3, section 10.4) -/

/-- Table 10-1. -/
def ResultCode.toBits : ResultCode → BitVec 5
  | .ok => 0 | .busy => 1 | .notGranted => 2 | .grantHeld => 3 | .quota => 4 | .full => 5 | .noEntry => 6 | .notHeld => 7
  | .range => 8 | .linkDown => 9 | .linkRunning => 10 | .heldForUpdate => 11 | .notStaged => 12 | .fenced => 13
  | .alarmActive => 14 | .badValue => 15

/-- Table 10-2. -/
def ErrorReason.toBits : ErrorReason → BitVec 4
  | .none => 0 | .range => 1 | .unaligned => 2 | .linkDown => 3 | .fenced => 4 | .notGranted => 5 | .notStaged => 6
  | .stageRange => 7 | .busy => 8

/-- LINK_STATUS bits 2:0. -/
def LinkState.toBits : LinkState → BitVec 3
  | .stopped => 0 | .bringup => 1 | .opened => 2 | .down => 3 | .stopping => 4 | .relinquished => 5

/-- LINK_STATUS bits 6:4. -/
def modeBits : Option Mode → BitVec 3
  | none => 0 | some .singleA => 1 | some .singleB => 2 | some .split => 3 | some .mirror => 4

/-- PRELOAD_STATUS bits 6:4. DETACHED never stands there (R81). -/
def PreloadStatus.toBits : PreloadStatus → BitVec 3
  | .none => 0 | .ok => 1 | .cancelled => 2 | .dropped => 3 | .link => 4 | .fenced => 5 | .detached => 0

/-- CHANNEL_x_INFO bits 2:0. -/
def EngineState.toBits : EngineState → BitVec 3
  | .off => 0 | .waking => 1 | .ident => 2 | .idle => 3 | .active => 4 | .fault => 5

/-- CHANNEL_x_INFO bits 5:4. -/
def FaultReason.toBits : FaultReason → BitVec 2
  | .none => 0 | .identBad => 1 | .timeout => 2

/-- DIR_SNAPSHOT word 0 bits 9:8. -/
def EntryState.toBits : EntryState → BitVec 2
  | .empty => 0 | .live => 1 | .draining => 2

/-- The number of a port, 0 when absent. -/
def portBits : Option Port → BitVec 2
  | none => 0
  | some p => BitVec.ofNat 2 (portNumber p)

/-- Table 10-3. A triple of outcomes that no operation ends with is outside the table (log entry 16). -/
def outcomeCode : Overall → PhaseOutcome → PhaseOutcome → BitVec 5
  | .ok, .ok, .none => 1
  | .ok, .none, .ok => 2
  | .ok, .ok, .ok => 3
  | .verifyMismatch, .verifyMismatch, .none => 4
  | .verifyMismatch, .none, .verifyMismatch => 5
  | .verifyMismatch, .verifyMismatch, .skipped => 6
  | .verifyMismatch, .ok, .verifyMismatch => 7
  | .flashFail, .flashFail, .none => 8
  | .flashFail, .none, .flashFail => 9
  | .flashFail, .flashFail, .skipped => 10
  | .flashFail, .ok, .flashFail => 11
  | .timeout, .timeout, .none => 12
  | .timeout, .none, .timeout => 13
  | .timeout, .timeout, .skipped => 14
  | .timeout, .ok, .timeout => 15
  | .stopped, .none, .none => 16
  | .linkLost, .none, .none => 17
  | .linkLost, .abandoned, .none => 18
  | .linkLost, .none, .abandoned => 19
  | .linkLost, .ok, .none => 20
  | .linkLost, .ok, .abandoned => 21
  | _, _, _ => 0

/-! ### The registers -/

/-- R144: the number of written flags set. -/
def UpdateController.writtenCount (u : UpdateController) : Nat :=
  (List.range Config.pageBytes).countP (fun i => u.written.getLsbD i)

/-- PORT_ID (R147). -/
def State.portId (s : State) (p : Port) : Word :=
  placeNumber 0 2 (portNumber p) ||| place 8 (PortSet.where (fun q => (s.port q).attached)).toBits |||
    place 24 ((BitVec.ofNat 9 s.update.writtenCount).extractLsb' 5 4)

/-- RESULT (R167). -/
def Result.word (x : Result) : Word := place 0 x.code.toBits ||| place 8 x.source

/-- LAST_ERROR (R63). -/
def LastError.word (x : LastError) : Word := place 0 x.address ||| place 28 x.reason.toBits

/-- LINK_STATUS (R13, R111). -/
def LinkController.statusWord (x : LinkController) : Word :=
  place 0 x.state.toBits ||| place 4 (modeBits x.mode) ||| place 8 x.strap ||| placeFlag 12 x.takeoverStopped |||
    placeFlag 13 x.firstBringupDone

/-- ALARMS (R157, R159). -/
def State.alarmsWord (s : State) (p : Port) : Word := place 0 s.alarms ||| place 8 (s.port p).latched

/-- FENCE (R160). -/
def PortState.fenceWord (x : PortState) : Word :=
  placeFlag 0 x.autoFence ||| place 8 x.fenceMask ||| placeFlag 16 x.fenced

/-- NOTICE_PENDING (R163). -/
def PortState.noticePendingWord (x : PortState) : Word := place 0 x.pendingNotices ||| place 8 x.repeats

/-- NOTICE_ENABLE (R164). -/
def PortState.noticeEnableWord (x : PortState) : Word :=
  place 0 x.enables ||| place 8 x.vectorShift ||| place 16 x.vectorBase

/-- PORT_SETTINGS (R62). -/
def PortState.settingsWord (x : PortState) : Word := place 0 x.holdLimit ||| placeFlag 16 x.burst

/-- LOCK_COUNT (R70). -/
def State.lockCountWord (s : State) (p : Port) : Word :=
  placeNumber 0 4 (s.holdCount p) ||| place 8 (s.portSetup p).quota ||| placeNumber 16 4 s.lockedCount

/-- PRELOAD_STATUS (R71): the valid-chunk count of the entry while the preload runs, its bit 7 at bit 7 and its bits 6:0
at bits 31:25. -/
def State.preloadStatusWord (s : State) (p : Port) : Word :=
  let x := (s.port p).preload
  let count : BitVec 8 := BitVec.ofNat 8 (if x.running then (s.entry x.entry).validCount else 0)
  placeFlag 0 x.running ||| placeFlag 1 x.lockTaken ||| place 4 x.lastStatus.toBits ||| placeNumber 8 4 x.entry.val |||
    placeNumber 12 13 x.block ||| place 25 (count.extractLsb' 0 7) ||| placeFlag 7 (count.getLsbD 7)

/-- CHANNEL_A_INFO, CHANNEL_B_INFO (R101, R122). -/
def Engine.infoWord (x : Engine) : Word :=
  place 0 x.state.toBits ||| place 4 x.faultReason.toBits ||| place 8 x.typeCode ||| place 16 (x.capacityCode.extractLsb' 0 5)

/-- R144: the operation field of GRANT_STATUS: NONE, PENDING, IN_SERVICE_A, IN_SERVICE_B. -/
def State.operationBits (s : State) : BitVec 2 :=
  match s.update.op, s.queue.find? Record.isUpdateOp with
  | none, _ => 0
  | some _, none => 1
  | some _, some r =>
    match r.state with
    | .pending => 1
    | .inService .a => 2
    | .inService .b => 3

/-- GRANT_STATUS (R144). -/
def State.grantStatusWord (s : State) (p : Port) : Word :=
  let u := s.update
  placeFlag 0 u.holder.isSome ||| place 1 (portBits u.holder) ||| placeFlag 3 (s.isHolder p) ||| placeFlag 4 u.orphaned |||
    place 5 s.operationBits ||| placeFlag 7 (u.op.any (fun op => op.kind == .erase)) |||
    placeFlag 8 (u.op.any (fun op => op.current == .second)) ||| placeFlag 9 u.stagedPage.isSome |||
    placeNumber 10 17 (u.stagedPage.getD 0 / Config.pageBytes) |||
    place 27 ((BitVec.ofNat 9 u.writtenCount).extractLsb' 0 5)

/-- UPDATE_RESULT (R143). -/
def UpdateResult.word (x : UpdateResult) : Word :=
  placeNumber 0 17 x.target |||
    placeNumber 17 2 (match x.kind with | none => 0 | some .program => 1 | some .erase => 2) |||
    place 19 (outcomeCode x.outcome x.outcomeA x.outcomeB) ||| place 24 x.sequence

/-- DIR_SNAPSHOT words 0 to 3 (R38). -/
def Snapshot.word (x : Snapshot) : Fin 4 → Word
  | 0 =>
    placeFlag 0 x.taken ||| placeNumber 4 4 x.index ||| place 8 x.state.toBits ||| placeFlag 12 x.tag.isSome |||
      placeNumber 16 13 (x.tag.getD 0)
  | 1 => placeNumber 0 8 x.validCount ||| placeNumber 16 4 x.rank
  | 2 => place 0 x.holders.toBits ||| placeFlag 8 x.owner.isSome ||| place 12 (portBits x.owner)
  | 3 => placeFlag 0 x.inService ||| placeNumber 8 4 x.pendingCount ||| placeFlag 16 x.underUpdate

/-- Section 10.1, R166: the value an aligned word of the control window reads as at port `p`; command registers and unlisted
offsets read 0. -/
def State.register (s : State) (p : Port) (offset : Nat) : Word :=
  match offset with
  | 0x00 => s.portId p
  | 0x04 => (s.port p).result.word
  | 0x08 => (s.port p).lastError.word
  | 0x0C => s.link.statusWord
  | 0x10 => placeNumber 0 26 s.link.imageSize
  | 0x14 => s.alarmsWord p
  | 0x18 => (s.port p).fenceWord
  | 0x1C => (s.port p).noticePendingWord
  | 0x20 => (s.port p).noticeEnableWord
  | 0x24 => place 0 (s.port p).noticeVector
  | 0x28 => (s.port p).settingsWord
  | 0x2C => s.grantStatusWord p
  | 0x30 => s.update.result.word
  | 0x34 => s.preloadStatusWord p
  | 0x38 => s.lockCountWord p
  | 0x80 => (s.port p).snapshot.word 0
  | 0x84 => (s.port p).snapshot.word 1
  | 0x88 => (s.port p).snapshot.word 2
  | 0x8C => (s.port p).snapshot.word 3
  | 0x90 => (s.engine .a).infoWord
  | 0x94 => (s.engine .b).infoWord
  | n =>
    if 0xC0 ≤ n ∧ n ≤ 0xFC ∧ n % 4 = 0 then s.setup.word (Fin.ofNat 16 ((n - 0xC0) / 4)) else 0

/-- R120, R121, spec 00 section 4: the flash pins of both channels are in high impedance while TAKE_ACK is asserted, and
driven else. So they are driven again when HUB_RESET goes low after a takeover, which R122 and R156 leave open (log
entry 21, DEDUCED). -/
def State.flashPinsDriven (s : State) : Bool := !s.link.takeAck

/-- R166: a read of one aligned word of the control window: no answer where no access can be presented. -/
def readControl (s : State) (p : Port) (offset : Byte) : Option Word :=
  if s.busFree p && offset.toNat % 4 == 0 then some (s.register p offset.toNat) else none

end Sys2Proof.Machine
end

