-- ==== Sys2Proof/Machine/Time.lean ====
section
/-! DEFINITION. The passing of time (R155): what a step does when no command waits. -/

namespace Sys2Proof.Machine

/-- A moment has come. -/
def State.due (s : State) (moment : Option Nat) : Bool := moment.any (fun m => m ≤ s.now)

/-- The expiry row of a timer whose moment has come. -/
def State.dueRow (s : State) (moment : Option Nat) (row : Instr) : List Instr := if s.due moment then [row] else []

/-- The expiries of a channel's timers whose moments have come. -/
def State.dueOn (s : State) (c : Channel) : List Instr :=
  s.dueRow (s.engine c).wakeTimer (.wakeDelayExpiry c) ++ s.dueRow (s.engine c).pollTimer (.pollTimerExpiry c) ++
    s.dueRow (s.engine c).operationTimer (.operationTimerExpiry c)

/-- The deadline of a port's outstanding read, when it has come. -/
def State.dueAt (s : State) (p : Port) : List Instr :=
  s.dueRow ((s.port p).read.bind OutstandingRead.deadline) (.readDeadline p)

/-- The expiries whose moments have come, in the order log entry 3 names. -/
def State.dueRows (s : State) : List Instr :=
  allPorts.flatMap s.dueAt ++ s.dueRow s.update.grantTimer .grantTimerExpiry ++ s.dueOn .a ++ s.dueOn .b

/-- R155: one REFCLK period. Every TB_DIV periods the time base advances by one unit, and the timers whose moments have
come put their expiry rows in the queue. While HUB_RESET is low nothing happens (R156). -/
def State.tick (s : State) : State :=
  let t := s.quiet
  if s.inReset then t
  else if s.refclkCount + 1 < s.setup.tbDiv.toNat then { t with refclkCount := s.refclkCount + 1 }
  else
    let u := { t with refclkCount := 0, now := s.now + 1 }
    { u with pending := u.pending ++ u.dueRows }

end Sys2Proof.Machine
end

