-- ==== Sys2Proof/Safety.lean ====
section
/-! DEFINITION. The laws of the hub: what the spec says holds in every state the hub stands in between two events. -/

namespace Sys2Proof.Safety

open Sys2Proof.Machine

/-! ### The directory -/

/-- The chunk store and the staging data keep their canonical form, so that equal contents are equal data. -/
def BuffersCanonical (s : State) : Prop := s.chunks.wf = true ∧ s.update.stagingData.wf = true

/-- R21: the LRU order holds each of the 16 entry indices exactly once. -/
def LruHoldsEachEntryOnce (s : State) : Prop := s.lru.Perm allEntries

/-- R20: a block number is the tag of at most one directory entry. -/
def TagsUnique (s : State) : Prop :=
  ∀ e e' : Fin 16, (s.entry e).state = .live → (s.entry e').state = .live → (s.entry e).tag = (s.entry e').tag → e = e'

/-- R64: at most 12 directory entries have a non-empty holder set. -/
def LocksWithinLimit (s : State) : Prop := s.lockedCount ≤ Config.globalLimit

/-- R16: the fields and records each entry state admits, HUB_RESET being high. -/
def EntriesLegal (s : State) : Prop :=
  s.inReset = false → ∀ e : Fin 16,
    match (s.entry e).state with
    | .empty => s.entry e = .cleared ∧ s.named e = false
    | .live => (s.entry e).tag.isSome
    | .draining =>
      s.entry e = { Entry.cleared with state := .draining } ∧ s.named e = true ∧
        ∀ r ∈ s.queue, r.names e = true → r.isPending = false

/-- R52: no entry chunk is covered by two fill records, and no chunk covered by a fill record is valid. -/
def CoverageExclusive (s : State) : Prop :=
  ∀ e : Fin 16, ∀ chunk : Fin 128,
    s.queue.countP (fun r => r.covers e chunk) ≤ 1 ∧
      (s.covered e chunk = true → (s.entry e).chunkValid chunk = false)

/-! ### The Link Queue and the engines -/

/-- R84: at most one demand-created fill and one preload fill for each port and at most one update operation. -/
def SharesKept (s : State) : Prop :=
  (∀ p : Port, s.queue.countP (fun r => r.isDemandOf p) ≤ 1 ∧ s.queue.countP (fun r => r.isPreloadOf p) ≤ 1) ∧
    s.queue.countP Record.isUpdateOp ≤ 1

/-- R82: the UPDATE_OP record exists exactly while the update operation does. While HUB_RESET is low there is no record. -/
def OperationQueued (s : State) : Prop :=
  s.inReset = false → (s.update.op.isSome ↔ ∃ r ∈ s.queue, r.isUpdateOp = true)

/-- R89: while an update operation is in service, no fill that reads an address inside its target is in service. -/
def TargetQuiet (s : State) : Prop :=
  (∃ r ∈ s.queue, r.isUpdateOp = true ∧ r.isPending = false) → s.quiescent = true

/-- R101: a channel has one record in service while its engine is ACTIVE, and none otherwise. -/
def ServiceMatchesEngines (s : State) : Prop :=
  ∀ c : Channel,
    s.queue.countP (fun r => r.state == .inService c) = if (s.engine c).state = .active then 1 else 0

/-- R91: no channel stays IDLE while a record eligible for it remains PENDING. -/
def NothingLeftToDispatch (s : State) : Prop := ∀ c : Channel, ∀ r ∈ s.queue, s.eligibleFor c r = false

/-! ### The ports -/

/-- R40: a port's read is a waiter of a record exactly when its state is WAITING_FILL, and then of exactly one record. -/
def WaitersMatchReads (s : State) : Prop :=
  ∀ p : Port, s.queue.countP (fun r => r.waiters.get p) = if s.readIn p .waitingFill then 1 else 0

/-- R71: a running preload's entry is LIVE with the preload's block as its tag and the port as its owner, and an entry's
owner runs a preload of that entry. -/
def PreloadsOwnTheirEntries (s : State) : Prop :=
  (∀ p : Port, (s.port p).preload.running = true →
      (s.entry (s.port p).preload.entry).owner = some p ∧
        (s.entry (s.port p).preload.entry).tag = some (s.port p).preload.block) ∧
    ∀ e : Fin 16, ∀ p : Port, (s.entry e).owner = some p →
      (s.port p).preload.running = true ∧ (s.port p).preload.entry = e

/-- R71, R74, R75, R79: a running preload's entry is LIVE, has the port as its owner and is not wholly valid; a pending
PRELOAD_FILL of a port belongs to the preload it runs and names that preload's entry. -/
def PreloadsStand (s : State) : Prop :=
  ∀ p : Port,
    ((s.port p).preload.running = true →
      (s.entry (s.port p).preload.entry).state = .live ∧ (s.entry (s.port p).preload.entry).owner = some p ∧
        (s.entry (s.port p).preload.entry).allValid = false) ∧
      ∀ r ∈ s.queue, r.isPreloadOf p = true → r.isPending = true →
        (s.port p).preload.running = true ∧ r.names (s.port p).preload.entry = true

/-- R149: a detached port has no outstanding read and no hold, and its registers hold their reset values. -/
def DetachedPortsHoldNothing (s : State) : Prop :=
  ∀ p : Port, (s.port p).attached = false →
    s.port p = { PortState.afterReset (s.port p).portEn with attached := false } ∧ s.holdCount p = 0

/-- R147, R148: while HUB_RESET is high every port is attached exactly as its attach condition says. -/
def AttachedAsConditioned (s : State) : Prop :=
  s.inReset = false → ∀ p : Port, (s.port p).attached = s.attachCondition p

/-! ### The Update Controller -/

/-- R123: an update operation exists only while the grant is held, orphaned included, and the staging buffer is open only
while the grant is held. R126: the grant timer runs only while a holder is present, orphaned is no and no operation exists. -/
def GrantLaw (s : State) : Prop :=
  (s.update.op.isSome → s.update.holder.isSome) ∧
    (s.update.stagedPage.isSome → s.update.holder.isSome) ∧
    (s.update.grantTimer.isSome →
      s.update.holder.isSome ∧ s.update.orphaned = false ∧ s.update.op = none)

/-- R123: orphaned is yes only while the holder's update operation still exists. -/
def OrphanedOnlyDuringOperation (s : State) : Prop :=
  s.update.orphaned = true → s.update.op.isSome ∧ s.update.holder.isSome

/-- R123, R131: every written flag is clear while the staging buffer is closed. -/
def WrittenOnlyWhileOpen (s : State) : Prop := s.update.stagedPage = none → s.update.written = 0

/-! ### The link -/

/-- R7, R10: the image size is 0 or a multiple of 1 MiB, and at most 32 MiB. -/
def ImageSizeLegal (s : State) : Prop := s.link.imageSize % 2 ^ 20 = 0 ∧ s.link.imageSize ≤ 2 ^ 25

/-- R10, R112, R113: while a bring-up runs the mode in effect is absent, the image size is 0 and no engine is ACTIVE. -/
def BringupHasNoImage (s : State) : Prop :=
  s.link.state = .bringup → s.link.mode = none ∧ s.link.imageSize = 0 ∧ ∀ c : Channel, (s.engine c).state ≠ .active

/-- R112 to R114: an engine wakes or identifies only in a bring-up; the capacity code of an IDLE or ACTIVE engine, and in
SPLIT that of channel A, is one that R113 judges good. -/
def IdentitiesJudged (s : State) : Prop :=
  (s.link.mode = some .split → 20 ≤ (s.engine .a).capacityCode.toNat) ∧
    ∀ c : Channel,
      ((s.engine c).state = .waking ∨ (s.engine c).state = .ident → s.link.state = .bringup) ∧
        ((s.engine c).state = .idle ∨ (s.engine c).state = .active → 20 ≤ (s.engine c).capacityCode.toNat)

/-- R120, R121: TAKE_ACK is asserted exactly while the link is RELINQUISHED, HUB_RESET being high. -/
def AckWhileRelinquished (s : State) : Prop :=
  s.inReset = false → (s.link.takeAck = true ↔ s.link.state = .relinquished)

/-- R101, R113: a capacity code is 0 or lies in 20 to 24. -/
def CapacityCodesLegal (s : State) : Prop :=
  ∀ c : Channel, (s.engine c).capacityCode = 0 ∨ (20 ≤ (s.engine c).capacityCode.toNat ∧ (s.engine c).capacityCode.toNat ≤ 24)

/-- R157: a channel's alarm is active exactly while its engine is in FAULT, HUB_RESET being high. -/
def ChannelAlarmsMatchFaults (s : State) : Prop :=
  s.inReset = false → ∀ c : Channel, (s.alarmActive (channelAlarm c) = true ↔ (s.engine c).state = .fault)

/-- R151: every field of the Shared Setup lies in its range. -/
def SetupInRange (s : State) : Prop :=
  s.setup.linkTiming ≠ 0 ∧ s.setup.tbDiv ≠ 0 ∧ s.setup.pollInterval ≠ 0 ∧ s.setup.programTimeout ≠ 0 ∧
    s.setup.eraseTimeout ≠ 0 ∧ ∀ p : Port, (s.portSetup p).quota.toNat ≤ 12

end Sys2Proof.Safety
end

