-- ==== Sys2Proof/Certificates/Slice0/Obligations.lean ====
section
/-! DEFINITION. The statements for the provers: what the commands and events of the hub do, rule by rule, and the laws that
every step keeps. A statement on a value that the model chose names its log entry. -/

namespace Sys2Proof.Claims

open Sys2Proof.Machine Sys2Proof.Safety

/-! ### The words of the statements -/

/-- R40, R156, R166: an access can be presented on the port's bus: HUB_RESET is high, the port is attached and no
outstanding read stalls its bus. -/
def Accessible (s : State) (p : Port) : Prop :=
  s.inReset = false ∧ (s.port p).attached = true ∧ (s.port p).read = none

/-- R128: the port counts as the grant holder. -/
abbrev Holds (s : State) (p : Port) : Prop := s.update.holder = some p ∧ s.update.orphaned = false

/-- R126: the grant timer after an access from the port: restarted if the port is the holder and no operation exists, and
stopped by that restart where the grant timeout is 0. -/
def timerAfter (s : State) (p : Port) : Option Nat :=
  if s.update.holder = some p ∧ s.update.orphaned = false ∧ s.update.op = none then
    if s.setup.grantTimeout = 0 then none else some (s.now + s.setup.grantTimeout.toNat * 10000)
  else s.update.grantTimer

/-- R166, R167: the hub at the end of a command that left it in `t`: RESULT, the grant timer, the answer DONE. -/
def finished (t : State) (p : Port) (code : ResultCode) (offset : Byte) : State :=
  { t with
    ports := t.ports.set p { t.port p with result := ⟨code, offset⟩ }
    update := { t.update with grantTimer := timerAfter t p }
    answers := t.answers ++ [⟨p, .done⟩] }

/-- The hub at the end of a command that was refused: nothing but RESULT, the grant timer and the answer has changed. -/
def refused (s : State) (p : Port) (code : ResultCode) (offset : Byte) : State :=
  finished { s with answers := [] } p code offset

/-- R168: the hub after a write that acts on the port's own fields alone. -/
def portWritten (s : State) (p : Port) (v : PortState) : State :=
  { s with ports := s.ports.set p v, answers := [⟨p, .done⟩] }

/-- R63: the hub after an access answered ERROR. -/
def answeredError (s : State) (p : Port) (reason : ErrorReason) (address : ImageAddress) : State :=
  { s with
    ports := s.ports.set p { s.port p with lastError := ⟨reason, address⟩ }, answers := [⟨p, .error reason⟩] }

/-- The port whose bus a command arrives on; none for a line, a timer or a flash transaction. -/
def busPort : Instr → Option Port
  | .imageRead p _ _ => some p
  | .imageWrite p _ _ => some p
  | .lock p _ => some p
  | .unlock p _ => some p
  | .unlockAll p _ => some p
  | .preload p _ => some p
  | .preloadCancel p _ => some p
  | .claim p _ => some p
  | .release p _ => some p
  | .stageOpen p _ => some p
  | .program p _ => some p
  | .erase p _ => some p
  | .dropUnlocked p _ => some p
  | .dropAll p _ => some p
  | .linkStop p _ => some p
  | .linkStart p _ => some p
  | .fenceClear p _ => some p
  | .dirPick p _ => some p
  | .fenceWrite p _ => some p
  | .noticeEnableWrite p _ => some p
  | .portSettingsWrite p _ => some p
  | .alarmsWrite p _ => some p
  | .noticePendingWrite p _ => some p
  | .sharedSetupWrite p _ _ => some p
  | .controlWriteIgnored p _ _ => some p
  | .controlUnalignedAccess p _ _ => some p
  | .portEnChange _ _ => none
  | .takeAssert => none
  | .takeRelease => none
  | .hubResetAssert => none
  | .hubResetEnd _ => none
  | .readDeadline _ => none
  | .grantTimerExpiry => none
  | .wakeDelayExpiry _ => none
  | .pollTimerExpiry _ => none
  | .operationTimerExpiry _ => none
  | .wakeEnd _ => none
  | .identEnd _ _ _ _ => none
  | .fillComplete _ _ => none
  | .enableWriteEnd _ => none
  | .programPageEnd _ => none
  | .eraseBlockEnd _ => none
  | .readStatusEnd _ _ => none
  | .verifyReadEnd _ _ => none

/-- R28, R64: every LIVE entry keeps its holders, but for port `p` in the entries a test selects. -/
def HoldsKeptBut (s t : State) (p : Port) (sel : Fin 16 → Bool) : Prop :=
  ∀ e q, (s.entry e).state = .live →
    (t.entry e).holders.get q = ((s.entry e).holders.get q && !(q == p && sel e))

/-- What a command that changes holds or preloads leaves alone: the buffers, the Shared Setup, the straps, the mode in effect,
the image size, the time base, and the Update Controller but for the grant timer. -/
def Undisturbed (s t : State) : Prop :=
  t.chunks = s.chunks ∧ t.setup = s.setup ∧ t.now = s.now ∧ t.link.mode = s.link.mode ∧
    t.link.imageSize = s.link.imageSize ∧ t.link.strap = s.link.strap ∧
    t.update = { s.update with grantTimer := t.update.grantTimer }

/-- R72: the checks of PRELOAD in order: the refusal of the first whose condition holds. -/
def preloadCheck (s : State) (p : Port) (block : Nat) (lockFlag : Bool) : Option ResultCode :=
  let holds := (s.heldEntry p block).isSome
  let locked := (s.findBlock block).any (fun e => (s.entry e).locked)
  if (s.port p).fenced then some .fenced
  else if (s.port p).preload.running then some .busy
  else if s.link.imageSize / 4096 ≤ block then some .range
  else if s.link.state ≠ .opened ∨ s.hasUsableChannel (block * 4096) = false then some .linkDown
  else if s.update.op.any (fun op => op.kind == .erase && op.target == block) then some .heldForUpdate
  else if (s.findBlock block).any (fun e => (s.entry e).owner.isSome) then some .busy
  else if lockFlag = true ∧ holds = false ∧ (s.portSetup p).quota.toNat ≤ s.holdCount p then some .quota
  else if lockFlag = true ∧ holds = false ∧ locked = false ∧ 12 ≤ s.lockedCount then some .full
  else if s.findBlock block = none ∧ s.victim = none then some .noEntry
  else none

/-- R132: the checks common to PROGRAM and ERASE in order. -/
def updateCheck (s : State) (p : Port) : Option ResultCode :=
  if ¬ Holds s p then some .notGranted
  else if s.update.op.isSome then some .busy
  else if (s.port p).fenced then some .fenced
  else none

/-- R132, R133: the checks of PROGRAM in order. -/
def programCheck (s : State) (p : Port) : Option ResultCode :=
  match updateCheck s p, s.update.stagedPage with
  | some code, _ => some code
  | none, none => some .notStaged
  | none, some page =>
    if s.update.written = 0 then some .notStaged
    else if s.link.imageSize ≤ page then some .range
    else if s.link.state ≠ .opened ∨ s.hasUsableChannel page = false then some .linkDown
    else none

/-- R132, R134: the checks of ERASE in order. -/
def eraseCheck (s : State) (p : Port) (block : Nat) : Option ResultCode :=
  match updateCheck s p with
  | some code => some code
  | none =>
    if s.link.imageSize / 4096 ≤ block then some .range
    else if s.link.state ≠ .opened ∨ s.hasUsableChannel (block * 4096) = false then some .linkDown
    else none

/-- R130: the write is a single access, of 1, 2 or 4 bytes, aligned to its size. -/
abbrev SingleAlignedAccess (x : Nat) (accesses : List (List Byte)) : Prop :=
  accesses.length = 1 ∧ (accesses.flatten.length = 1 ∨ (accesses.flatten.length = 2 ∧ x % 2 = 0) ∨
    (accesses.flatten.length = 4 ∧ x % 4 = 0))

/-- R130: the checks of an image-window write at an attached port, in order. -/
def writeCheck (s : State) (p : Port) (x : Nat) (accesses : List (List Byte)) : Option ErrorReason :=
  if ¬ Holds s p then some .notGranted
  else
    match s.update.stagedPage with
    | none => some .notStaged
    | some page =>
      if ¬ SingleAlignedAccess x accesses then some .unaligned
      else if ¬ (page ≤ x ∧ x ≤ page + 255) then some .stageRange
      else if s.update.op.isSome then some .busy
      else none

/-- R74: the chunk of the entry can be the next chunk of a preload of the block: not valid, not covered, not in the update
target. -/
def Qualifies (s : State) (e : Fin 16) (valid : BitVec 128) (block chunk : Nat) : Prop :=
  valid.getLsbD chunk = false ∧ s.covered e chunk = false ∧ s.inTarget block chunk = false

/-- R75: the cursor of the port's preload, if one runs, has nothing to do: the entry is not wholly valid, and the port has a
preload fill in the queue or no chunk qualifies. -/
def CursorWaits (s : State) (q : Port) : Prop :=
  (s.port q).preload.running = true →
    (s.entry (s.port q).preload.entry).allValid = false ∧
      (s.preloadSlotBusy q = true ∨
        ∀ chunk : Fin 128, ¬ Qualifies s (s.port q).preload.entry (s.entry (s.port q).preload.entry).valid
          (s.port q).preload.block chunk)

/-- R27, R57, R50: the HELD_VICTIM reads have been taken again: a read still so held has its port's demand fill slot
occupied, or there is no victim. The laws of the LRU order and of the preloads are statements of their own. -/
def VictimsRetaken (s t : State) : Prop :=
  LruHoldsEachEntryOnce s → PreloadsStand s →
    ∀ q, t.readIn q .heldVictim = true → t.demandSlotBusy q = true ∨ t.victim = none

/-- R75: the cursors have acted: that of every running preload waits. The law of the preloads is a statement of its own. -/
def CursorsServed (s t : State) : Prop := PreloadsStand s → ∀ q, CursorWaits t q

/-- R79: the port's preload, if one ran, has ended with a status, with PRELOAD_DONE. -/
def PreloadEnded (s t : State) (q : Port) (status : PreloadStatus) : Prop :=
  (s.port q).preload.running = true →
    (t.port q).preload = { (s.port q).preload with running := false, lastStatus := status } ∧
      ((s.port q).attached = true → (t.port q).pendingNotices.getLsbD 4 = true)

/-- R24, R28: the entry is LIVE and, once the port is out of its holder set, neither locked, owned nor named by a record. -/
def FreeBut (s : State) (e : Fin 16) (p : Port) : Prop :=
  (s.entry e).state = .live ∧ (∀ q, (s.entry e).holders.get q = true → q = p) ∧ (s.entry e).owner = none ∧ s.named e = false

/-- R74, R90: the queue once the cursor of a preload taken on entry `e` has acted and the event's dispatch is made: one
PRELOAD_FILL from the lowest qualifying chunk to the end of its quad, or to before the first chunk valid or covered; and no
new record where the port has a preload fill in the queue or no chunk qualifies. -/
def CursorActed (s t : State) (p : Port) (e : Fin 16) (block : Nat) : Prop :=
  let qualifies := Qualifies s e (t.entry e).valid block
  (s.preloadSlotBusy p = true ∨ (∀ chunk : Fin 128, ¬ qualifies chunk) → t.queue = s.dispatch.queue) ∧
    ∀ chunk : Fin 128, s.preloadSlotBusy p = false → qualifies chunk → (∀ lower < chunk, ¬ qualifies lower) →
      ∃ count ∈ [1, 2, 3, 4],
        chunk.val % 4 + count ≤ 4 ∧
        (∀ i < count, (t.entry e).valid.getLsbD (chunk + i) = false ∧ s.covered e (chunk + i) = false) ∧
        (chunk.val % 4 + count < 4 →
          (t.entry e).valid.getLsbD (chunk + count) = true ∨ s.covered e (chunk + count) = true) ∧
        t.queue = (State.dispatch { s with queue := s.queue ++
          [{ origin := p, cls := .preload, level := s.levelOf p
             target := if s.link.mode = some .mirror then .either
               else if s.channelOf (block * 4096 + chunk * 32) .a then .only .a else .only .b
             state := .pending
             work := .fill
               { kind := .preload, entry := e, block := block, first := chunk, count := count
                 waiters := PerPort.all false } }] }).queue

/-- R26: the entry has been allocated in the event to the block of a port's read that was taken again, and a record of that
port fills it. -/
def GivenToARead (s t : State) (e : Fin 16) : Prop :=
  ∃ q, (s.port q).read.isSome ∧ (∃ r ∈ t.queue, r.origin = q ∧ r.names e = true) ∧
    t.entry e =
      { state := .live, tag := (s.port q).read.map (fun x => x.address.toNat / 4096), valid := 0
        holders := PerPort.all false, owner := none }

/-- R34, R57, R81: what the drop of a LIVE entry leaves of it: nothing, DRAINING while a record in service names it and EMPTY
else, unless a read taken again got the empty entry. Its owner's preload ends DROPPED, and where the entry or the demand fill
slot of a HELD_VICTIM read is freed the HELD_VICTIM reads are taken again. -/
def EntryDropped (s t : State) (e : Fin 16) : Prop :=
  let left (state : EntryState) : Entry :=
    { state := state, tag := none, valid := 0, holders := PerPort.all false, owner := none }
  ((∃ r ∈ s.queue, r.names e = true ∧ r.isPending = false) → t.entry e = left .draining) ∧
    ((∀ r ∈ s.queue, r.names e = true → r.isPending = true) →
      (t.entry e = left .empty ∨ GivenToARead s t e) ∧ VictimsRetaken s t) ∧
    ((∃ r ∈ s.queue, r.names e = true ∧ r.isPending = true ∧ r.isDemandOf r.origin = true ∧
        s.readIn r.origin .heldVictim = true) → VictimsRetaken s t) ∧
    ∀ q, (s.entry e).owner = some q → PreloadEnded s t q .dropped

/-- R22, R23: the LRU order after an event that leaves it as `order` but for the entries that a port's read taken again moves
to MRU, by a hit or an allocation; the entries not so moved keep their relative order. With no read outstanding it is `order`.
-/
def LruLeft (s t : State) (order : List (Fin 16)) : Prop :=
  ∃ moved : Fin 17,
    (∀ e ∈ t.lru.take moved, ∃ q, (s.port q).read.isSome ∧
      (t.entry e).tag = (s.port q).read.map (fun x => x.address.toNat / 4096)) ∧
    t.lru.drop moved = order.filter (fun e => !(t.lru.take moved).contains e)

/-- R23: the LRU order with the entries a test selects moved to the LRU end together. -/
def movedToEnd (lru : List (Fin 16)) (sel : Fin 16 → Bool) : List (Fin 16) :=
  lru.filter (fun e => !sel e) ++ lru.filter sel

/-- R26: the event has allocated the entry to the block of a read that was outstanding, which was not the block it held. -/
def GotByARead (s t : State) (e : Fin 16) : Prop :=
  ∃ q x, (s.port q).read = some x ∧
    ((s.entry e).state = .live → (s.entry e).tag ≠ some (x.address.toNat / 4096)) ∧
    t.entry e =
      { state := .live, tag := some (x.address.toNat / 4096), valid := 0, holders := PerPort.all false, owner := none }

/-- R15, R26: the entry has its state, tag and flags still, unless a read taken again got it. -/
def ContentKept (s t : State) (e : Fin 16) : Prop :=
  ((t.entry e).state = (s.entry e).state ∧ (t.entry e).tag = (s.entry e).tag ∧ (t.entry e).valid = (s.entry e).valid) ∨
    GotByARead s t e

/-- R22, R26: the directory has its contents and its order still, but for what a read taken again got or hit. -/
def DirectoryKept (s t : State) : Prop :=
  (∀ e, ContentKept s t e) ∧ (LruHoldsEachEntryOnce s → LruLeft s t s.lru)

/-- R28: every LIVE entry has its holders still. -/
def HoldsKept (s t : State) : Prop :=
  ∀ e q, (s.entry e).state = .live → (t.entry e).holders.get q = (s.entry e).holders.get q

/-- R55: the reads of the ports that a test selects are taken again in ascending port order, each against the state that the
reads before it left. -/
def takenInPortOrder (s : State) (sel : Port → Bool) : State :=
  [Port.cp0, .cp1, .cp2, .cp3].foldl (fun t q => if sel q then t.retake q else t) s

/-- R40: every read that waits for a fill is a waiter of a record. -/
def NoReadStranded (s : State) : Prop := ∀ q, s.readIn q .waitingFill = true → ∃ r ∈ s.queue, r.waiters.get q = true

/-- R101: a fill whose READ ends is the one record in service on its channel. -/
def AloneInService (s : State) (i : Instr) : Prop :=
  ∀ c data, i = .fillComplete c data → s.queue.countP (fun r => r.state == .inService c) ≤ 1

/-- R54, R96, R98: every waiter of a record that the link removes is answered ERROR LINK_DOWN, with LAST_ERROR, and waits no
more. -/
def AnsweredLinkDown (s t : State) (r : Record) : Prop :=
  ∀ q, r.waiters.get q = true → ∀ x, (s.port q).read = some x →
    (t.port q).read = none ∧ (t.port q).lastError = ⟨.linkDown, x.address⟩ ∧ ⟨q, .error .linkDown⟩ ∈ t.answers

/-! ### The registers of the control window -/

/-- 10.4: the word with the given fields, each by its lowest bit, its width and its value, and 0 in every other bit. -/
def layout (fields : List (Nat × Nat × Nat)) : Word :=
  fields.foldr (fun (low, width, value) word => (BitVec.ofNat 32 (value % 2 ^ width) <<< low) ||| word) 0

/-- Table 10-1. -/
def codeNumber : ResultCode → Nat
  | .ok => 0
  | .busy => 1
  | .notGranted => 2
  | .grantHeld => 3
  | .quota => 4
  | .full => 5
  | .noEntry => 6
  | .notHeld => 7
  | .range => 8
  | .linkDown => 9
  | .linkRunning => 10
  | .heldForUpdate => 11
  | .notStaged => 12
  | .fenced => 13
  | .alarmActive => 14
  | .badValue => 15

/-- Table 10-2. -/
def reasonNumber : ErrorReason → Nat
  | .none => 0
  | .range => 1
  | .unaligned => 2
  | .linkDown => 3
  | .fenced => 4
  | .notGranted => 5
  | .notStaged => 6
  | .stageRange => 7
  | .busy => 8

/-- 10.4, LINK_STATUS: the link state. -/
def linkNumber : LinkState → Nat
  | .stopped => 0
  | .bringup => 1
  | .opened => 2
  | .down => 3
  | .stopping => 4
  | .relinquished => 5

/-- 10.4, LINK_STATUS: the mode in effect. -/
def modeNumber : Option Mode → Nat
  | none => 0
  | some .singleA => 1
  | some .singleB => 2
  | some .split => 3
  | some .mirror => 4

/-- 10.4: a port that may be absent. -/
def ownerNumber : Option Port → Nat
  | none => 0
  | some p => portNumber p

/-- 10.4, DIR_SNAPSHOT: the state of an entry. -/
def entryNumber : EntryState → Nat
  | .empty => 0
  | .live => 1
  | .draining => 2

/-- 10.4, CHANNEL_A_INFO and CHANNEL_B_INFO. -/
def engineFields (x : Engine) : List (Nat × Nat × Nat) :=
  let state := match x.state with | .off => 0 | .waking => 1 | .ident => 2 | .idle => 3 | .active => 4 | .fault => 5
  let reason := match x.faultReason with | .none => 0 | .identBad => 1 | .timeout => 2
  [(0, 3, state), (4, 2, reason), (8, 8, x.typeCode.toNat), (16, 5, x.capacityCode.toNat)]

/-- 10.4, UPDATE_RESULT: the kind. -/
def kindNumber : Option OpKind → Nat
  | none => 0
  | some .program => 1
  | some .erase => 2

/-- R144: the number of written flags set. -/
def stagedCount (s : State) : Nat := (List.range 256).countP (fun i => s.update.written.getLsbD i)

/-- R38: the number of valid chunks of an entry. -/
def validChunks (x : Entry) : Nat := (List.range 128).countP (fun c => x.valid.getLsbD c)

/-- R144: the operation as GRANT_STATUS shows it: none, pending, in service on A, in service on B. -/
def operationNumber (s : State) : Nat :=
  let served (c : Channel) := (s.queue.find? Record.isUpdateOp).any (fun r => r.state == .inService c)
  if s.update.op = none then 0 else if served .a then 2 else if served .b then 3 else 1

/-- 10.4, PRELOAD_STATUS: the last status. -/
def statusTable : List (PreloadStatus × Nat) :=
  [(.none, 0), (.ok, 1), (.cancelled, 2), (.dropped, 3), (.link, 4), (.fenced, 5)]

/-- Table 10-3: the outcome, the outcomes on A and B, and the code. -/
def outcomeTable : List (Overall × PhaseOutcome × PhaseOutcome × Nat) :=
  [(.none, .none, .none, 0), (.ok, .ok, .none, 1), (.ok, .none, .ok, 2), (.ok, .ok, .ok, 3),
    (.verifyMismatch, .verifyMismatch, .none, 4), (.verifyMismatch, .none, .verifyMismatch, 5),
    (.verifyMismatch, .verifyMismatch, .skipped, 6), (.verifyMismatch, .ok, .verifyMismatch, 7),
    (.flashFail, .flashFail, .none, 8), (.flashFail, .none, .flashFail, 9),
    (.flashFail, .flashFail, .skipped, 10), (.flashFail, .ok, .flashFail, 11)] ++
  [(.timeout, .timeout, .none, 12), (.timeout, .none, .timeout, 13), (.timeout, .timeout, .skipped, 14),
    (.timeout, .ok, .timeout, 15), (.stopped, .none, .none, 16), (.linkLost, .none, .none, 17),
    (.linkLost, .abandoned, .none, 18), (.linkLost, .none, .abandoned, 19), (.linkLost, .ok, .none, 20),
    (.linkLost, .ok, .abandoned, 21)]

/-- 10.5: the fields of a word of a port's setup. -/
def portSetupFields (x : PortSetup) : List (Nat × Nat × Nat) :=
  [(0, 2, x.level.toNat), (8, 4, x.quota.toNat), (16, 1, (decide (x.source = .setup)).toNat), (17, 1, x.attachBit.toNat)]

/-- 10.5: the fields of each word of the Shared Setup. -/
def setupFields (x : Setup) : Nat → List (Nat × Nat × Nat)
  | 0 =>
    [(0, 2, match x.configuredMode with | .single => 0 | .split => 1 | .mirror => 2), (4, 1, x.enableA.toNat),
      (5, 1, x.enableB.toNat), (8, 4, x.linkTiming.toNat), (16, 6, x.tbDiv.toNat)]
  | 1 => [(0, 10, x.wakeDelay.toNat), (16, 8, x.pollInterval.toNat)]
  | 2 => [(0, 6, x.programTimeout.toNat), (8, 8, x.eraseTimeout.toNat)]
  | 3 => [(0, 3, x.busyPosition.toNat), (4, 3, x.failPosition.toNat)]
  | 4 =>
    [(0, 8, x.wakeCommand.toNat), (8, 8, x.identCommand.toNat), (16, 8, x.readCommand.toNat),
      (24, 8, x.enableWriteCommand.toNat)]
  | 5 => [(0, 8, x.programPageCommand.toNat), (8, 8, x.eraseBlockCommand.toNat), (16, 8, x.readStatusCommand.toNat)]
  | 6 => [(0, 8, x.grantTimeout.toNat)]
  | 7 => portSetupFields (x.ports.get .cp0)
  | 8 => portSetupFields (x.ports.get .cp1)
  | 9 => portSetupFields (x.ports.get .cp2)
  | 10 => portSetupFields (x.ports.get .cp3)
  | _ => []

/-! ### Grants, reads and operations -/

/-- R128, R131: the Update Controller once the grant is released: no holder, the timer stopped, the staging buffer
closed. -/
def released (u : UpdateController) : UpdateController :=
  { u with holder := none, orphaned := false, grantTimer := none, stagedPage := none, written := 0 }

/-- R8, R132: the phases of an operation on the unit at `x`: A then B in MIRROR, and else the channel of the unit. -/
def phasesFor (s : State) (x : Nat) : Phases :=
  if s.link.mode = some .mirror then .aThenB else if s.channelOf x .a then .one .a else .one .b

/-- R59: the deadline of a read that arrives now. -/
def deadlineNow (s : State) (p : Port) : Option Nat :=
  if (s.port p).holdLimit = 0 then none else some (s.now + (s.port p).holdLimit.toNat)

/-- R40: the hub with the port's read outstanding in a state. -/
def waiting (s : State) (p : Port) (x : ImageAddress) (beats : Nat) (state : ReadState) : State :=
  { s with
    ports := s.ports.set p { s.port p with
      read := some { address := x, beats := beats, state := state, deadline := deadlineNow s p } }
    answers := [] }

/-- R2, R3: the read is well formed. -/
def WellFormedRead (x beats : Nat) : Prop := x % 4 = 0 ∧ 1 ≤ beats ∧ beats ≤ 8 ∧ x % 32 + 4 * beats ≤ 32

/-- Steps 3 to 5 of R42 pass the read on: the link is not in BRINGUP, the address lies in the image and not in the update
target. -/
def ReachesLookup (s : State) (x : Nat) : Prop :=
  s.link.state ≠ .bringup ∧ x < s.link.imageSize ∧ s.inTarget (x / 4096) (x % 4096 / 32) = false

/-- R20: the outcomes of the lookup at `x`: a hit, a miss on a present block, a miss on an absent block. -/
def Hit (s : State) (x : Nat) (e : Fin 16) : Prop :=
  s.findBlock (x / 4096) = some e ∧ (s.entry e).valid.getLsbD (x % 4096 / 32) = true

/-- The lookup misses. -/
def Miss (s : State) (x : Nat) : Prop := ∀ e, ¬ Hit s x e

/-- Steps 7 and 8 of R42 pass a miss on: the port is not fenced, the link is OPEN and the address has a usable channel. -/
def MayFill (s : State) (p : Port) (x : Nat) : Prop :=
  (s.port p).fenced = false ∧ s.link.state = .opened ∧ s.hasUsableChannel x = true

/-- R86: the record's level is the highest software level among its origin and its waiters. -/
def LevelOfMembers (s : State) (r : Record) : Prop :=
  (∀ q, (q = r.origin ∨ r.waiters.get q = true) → s.levelOf q ≤ r.level) ∧
    ∃ q, (q = r.origin ∨ r.waiters.get q = true) ∧ r.level = s.levelOf q

/-- R112: a bring-up has begun with some channel enabled: the link, and every channel's engine. -/
def BringupBegun (s t : State) : Prop :=
  t.link.state = .bringup ∧ t.link.mode = none ∧ t.link.imageSize = 0 ∧ t.link.firstBringupDone = true ∧
    t.alarmActive .pairFault = false ∧ t.alarmActive .mirrorDegraded = false ∧
    ∀ c, t.engine c =
      if s.setup.channelEnabled c then
        { state := .waking, typeCode := 0, capacityCode := 0, faultReason := .none, step := .wake
          transaction := some
            { kind := .wake, command := s.setup.wakeCommand, address := none, readLength := 0, sent := [] }
          wakeTimer := none, pollTimer := none, operationTimer := none }
      else
        { state := .off, typeCode := 0, capacityCode := 0, faultReason := (s.engine c).faultReason, step := .rest
          transaction := none, wakeTimer := none, pollTimer := none, operationTimer := none }

/-- R112 step 3: a channel is enabled for a bring-up that begins now. -/
def SomeChannelEnabled (s : State) : Prop := ∃ c, s.setup.channelEnabled c = true

/-- R114: the mode in effect by the rows of its table. -/
def modeChosen (configured : ConfiguredMode) (okA okB equalCodes : Bool) : Option Mode :=
  match configured, okA, okB, equalCodes with
  | .single, true, _, _ => some .singleA
  | .single, false, _, _ => none
  | .split, true, true, _ => some .split
  | .split, true, false, _ => some .singleA
  | .split, false, _, _ => none
  | .mirror, true, true, true => some .mirror
  | .mirror, true, true, false => some .singleA
  | .mirror, true, false, _ => some .singleA
  | .mirror, false, true, _ => some .singleB
  | .mirror, false, false, _ => none

/-- R113: the identity is bad. -/
def IdentityBad (maker typeCode capacity : Byte) : Prop :=
  (maker = 0xFF ∧ typeCode = 0xFF ∧ capacity = 0xFF) ∨ capacity.toNat < 20 ∨ 24 < capacity.toNat

/-- R101: the engine at rest, in a state. -/
def AtRest (x : Engine) (state : EngineState) : Prop :=
  x.state = state ∧ x.step = .rest ∧ x.transaction = none ∧ x.wakeTimer = none ∧ x.pollTimer = none ∧
    x.operationTimer = none

/-- R103: the engine of the channel starts a transaction and stands at a step. -/
def opens (s : State) (c : Channel) (x : Engine) (step : EngineStep) (kind : TransactionKind)
    (address : Option FlashAddress) (readLength : Nat) (sent : List Byte) : State :=
  { s with
    engines := s.engines.set c { x with
      step := step
      transaction := some
        { kind := kind, command := s.setup.commandByte kind, address := address, readLength := readLength, sent := sent } }
    answers := [] }

/-- R149: the port has detached: its registers hold their reset values, it holds nothing, its preload has ended, and the
HELD_VICTIM reads of the other ports are taken again; the directory keeps its contents and the other ports' holds. -/
def DetachedAtOnce (s t : State) (q : Port) : Prop :=
  t.port q = { PortState.afterReset (t.port q).portEn with attached := false } ∧
    (∀ e, (t.entry e).holders.get q = false) ∧
    (∀ r ∈ t.queue, r.waiters.get q = false) ∧
    (∀ a ∈ t.answers, a.port = q → a.answer = .done) ∧
    ((s.port q).preload.running = true →
      (t.entry (s.port q).preload.entry).owner ≠ some q ∧ ∀ r ∈ t.queue, r.isPreloadOf q = true → r.isPending = false) ∧
    VictimsRetaken s t ∧ HoldsKeptBut s t q (fun _ => true) ∧ DirectoryKept s t ∧
    (Holds s q → s.update.op = none → t.update = released s.update) ∧
    (Holds s q → s.update.op.isSome → t.update = { s.update with orphaned := true, grantTimer := none })

/-- R106 to R110: the command ends the phase that is in service on the channel with an outcome, and hands over the bytes. -/
def PhaseEnds (s : State) (c : Channel) (op : UpdateOp) (i : Instr) (outcome : PhaseOutcome) (data : List Byte) : Prop :=
  s.inReset = false ∧ s.update.op = some op ∧ (s.engine c).state = .active ∧
    ((∃ failFlag, i = .verifyReadEnd c data ∧ (s.engine c).step = .verify failFlag ∧ data.length = 256 ∧
        outcome = if failFlag then .flashFail else if s.update.verifies data then .ok else .verifyMismatch) ∨
      (∃ status, i = .readStatusEnd c status ∧ (s.engine c).step = .readStatus ∧ op.kind = .erase ∧ data = [] ∧
        status.getLsbD s.setup.busyPosition.toNat = false ∧
        outcome = if status.getLsbD s.setup.failPosition.toNat then .flashFail else .ok) ∨
      (i = .operationTimerExpiry c ∧ (s.engine c).operationTimer.isSome ∧ data = [] ∧ outcome = .timeout))

/-- R142: the overall outcome that a phase outcome gives an operation it ends. -/
def overallOf (outcome : PhaseOutcome) : Overall :=
  match outcome with
  | .ok => .ok
  | .verifyMismatch => .verifyMismatch
  | .flashFail => .flashFail
  | .timeout => .timeout
  | .none | .skipped | .abandoned => .none

/-- R142: the operation has ended: UPDATE_RESULT, the withdrawal, the HELD_UPDATE reads (R58), the staging buffer, the grant.
The staging buffer is closed for a PROGRAM (R131), and the grant is released where it was orphaned. -/
def OperationEnded (s t : State) (op : UpdateOp) (overall : Overall) (outcomeA outcomeB : PhaseOutcome) : Prop :=
  t.update.result =
      { kind := some op.kind, target := (match op.kind with | .program => op.target / 256 | .erase => op.target)
        outcome := overall, outcomeA := outcomeA, outcomeB := outcomeB, sequence := s.update.result.sequence + 1 } ∧
    t.update.op = none ∧ (∀ r ∈ t.queue, r.isUpdateOp = false) ∧ (∀ q, t.readIn q .heldUpdate = false) ∧
    (s.update.orphaned = true →
      t.update.holder = none ∧ t.update.orphaned = false ∧ t.update.grantTimer = none ∧ t.update.stagedPage = none) ∧
    (s.update.orphaned = false →
      t.update.holder = s.update.holder ∧ t.update.orphaned = false ∧
        t.update.stagedPage = (if op.kind = .program ∨ overall = .linkLost then none else s.update.stagedPage) ∧
        (s.update.holder.isSome →
          t.update.grantTimer =
            if s.setup.grantTimeout = 0 then none else some (t.now + s.setup.grantTimeout.toNat * 10000)) ∧
        ((s.port op.origin).attached = true →
          (t.port op.origin).pendingNotices.getLsbD (if overall = .ok then 1 else 2) = true))

/-- R158, R81: the alarm is active; where it was not, every attached port latched it, got ALARM, and is fenced where its
auto-fence is on and its mask flag clear. A port that was not fenced before gets FENCED, holds no HELD_VICTIM read and runs no
preload: it has ended FENCED, but for LINK_TAKEN, before which a takeover has ended it LINK (R120). -/
def AlarmRaised (s t : State) (a : Alarm) : Prop :=
  t.alarmActive a = true ∧
    (s.alarmActive a = false → ∀ q, (s.port q).attached = true →
      (t.port q).latched.getLsbD a.id = true ∧ (t.port q).pendingNotices.getLsbD 6 = true ∧
        ((s.port q).autoFence = true → (s.port q).fenceMask.getLsbD a.id = false →
          (t.port q).fenced = true ∧
            ((s.port q).fenced = false →
              (t.port q).pendingNotices.getLsbD 5 = true ∧ t.readIn q .heldVictim = false ∧
                PreloadEnded s t q (if a = .linkTaken then .link else .fenced))))

/-- R35: the drop of every entry with IMAGE_LOST to every attached port. -/
def DirectoryLost (s t : State) : Prop :=
  (∀ e, (t.entry e).state ≠ .live ∧
    ((s.entry e).state = .live → (t.entry e).tag = none ∧ (t.entry e).valid = 0 ∧ (t.entry e).locked = false)) ∧
    ∀ q, (s.port q).attached = true → (t.port q).pendingNotices.getLsbD 0 = true

/-- R112, R114: what the begin of a bring-up leaves: the bring-up under way or, with no channel enabled, its end with the link
DOWN; the drop of every entry and IMAGE_LOST, but for the first bring-up. -/
def BringupStarts (s t : State) : Prop :=
  (SomeChannelEnabled s → BringupBegun s t) ∧
    (¬ SomeChannelEnabled s →
      t.link.state = .down ∧ t.link.mode = none ∧ t.link.imageSize = 0 ∧ t.link.firstBringupDone = true ∧
        (∀ c, AtRest (t.engine c) .off) ∧
        (t.alarmActive .pairFault = true ↔ s.setup.configuredMode = .mirror) ∧
        ∀ q, (s.port q).attached = true → (t.port q).pendingNotices.getLsbD 7 = true) ∧
    (s.link.firstBringupDone = true → DirectoryLost s t)

/-- R65, R92: what every entry keeps where holds and chunks are not the event's concern: all but the preload owner. -/
def EntriesKeptButOwners (s t : State) : Prop :=
  ∀ e, (s.entry e).state = .live → t.entry e = { s.entry e with owner := (t.entry e).owner }

/-- R39, R62, R63, R71, R101, R155, R158, R163, R164, R167: the per-port registers at their reset values. -/
def PortReset (x : PortState) : Prop :=
  x.read = none ∧ x.result = ⟨.ok, 0⟩ ∧ x.lastError = ⟨.none, 0⟩ ∧ x.holdLimit = 0 ∧ x.burst = true ∧ x.autoFence = false ∧
    x.fenceMask = 0 ∧ x.fenced = false ∧ x.repeats = 0 ∧ x.enables = 0 ∧ x.vectorShift = 2 ∧
    x.vectorBase = 0 ∧
    x.preload = { running := false, block := 0, entry := 0, lockTaken := false, lastStatus := .none } ∧
    x.snapshot =
      { taken := false, index := 0, state := .empty, tag := none, validCount := 0, holders := PerPort.all false
        owner := none, rank := 0, inService := false, pendingCount := 0, underUpdate := false }

/-- R14, R39, R83, R123, R151, R155, R157: what a hub reset leaves but for the link, the engines and the ports' alarm flags.
-/
def HubReset (s t : State) (straps : BitVec 2) : Prop :=
  t.inReset = false ∧ t.link.strap = straps ∧ t.link.takeLine = s.link.takeLine ∧ t.link.mode = none ∧
    t.link.imageSize = 0 ∧
    (∀ q, PortReset (t.port q) ∧ (t.port q).portEn = (s.port q).portEn ∧ (t.port q).attached = (s.port q).portEn) ∧
    (∀ e, t.entry e = { state := .empty, tag := none, valid := 0, holders := PerPort.all false, owner := none }) ∧
    t.lru = (List.finRange 16) ∧ t.chunks = s.chunks ∧ t.queue = [] ∧
    t.update =
      { holder := none, orphaned := false, grantTimer := none, stagedPage := none, stagingData := s.update.stagingData,
        written := 0, op := none,
        result := { kind := none, target := 0, outcome := .none, outcomeA := .none, outcomeB := .none, sequence := 0 } } ∧
    t.setup =
      { configuredMode := if straps = 1 then .split else if straps = 2 then .mirror else .single
        enableA := true, enableB := true, linkTiming := 2, tbDiv := 25, wakeDelay := 100, pollInterval := 20
        programTimeout := 5, eraseTimeout := 50, busyPosition := 0, failPosition := 5, wakeCommand := 0xA3
        identCommand := 0x8E, readCommand := 0x13, enableWriteCommand := 0x26, programPageCommand := 0x32
        eraseBlockCommand := 0x4B, readStatusCommand := 0x15, grantTimeout := 50
        ports := PerPort.all { level := 1, quota := 4, source := .pin, attachBit := true } } ∧
    t.now = 0 ∧ t.refclkCount = 0 ∧ t.pending = s.pending

/-- R6: the capacity a code stands for. -/
def capacityOf (x : Engine) : Nat := 2 ^ x.capacityCode.toNat

/-- R10, R114: the image size of a mode in effect. -/
def sizeOf (mode : Option Mode) (a b : Engine) : Nat :=
  match mode with
  | none => 0
  | some .singleA => capacityOf a
  | some .singleB => capacityOf b
  | some .split => capacityOf a + capacityOf b
  | some .mirror => capacityOf a

/-- R6: the channels of a mode in effect. -/
def inMode (mode : Option Mode) (c : Channel) : Prop :=
  mode = some .split ∨ mode = some .mirror ∨ (mode = some .singleA ∧ c = .a) ∨ (mode = some .singleB ∧ c = .b)

/-- R7: the flash address that an image address has on a channel. -/
def flashOf (s : State) (x : Nat) (c : Channel) : FlashAddress :=
  if s.link.mode = some .split ∧ c = .b then BitVec.ofNat 24 (x - capacityOf (s.engine .a)) else BitVec.ofNat 24 x

/-- R90, R103, R105, R106, R109: the engine of a channel that a dispatch gives a record: ACTIVE, with the READ of a fill's
chunks under way, or the ENABLE_WRITE of an UPDATE_OP. -/
def engineServing (s : State) (c : Channel) (r : Record) : Engine :=
  match r.work with
  | .fill f =>
    { s.engine c with
      state := .active, step := .fillRead
      transaction := some
        { kind := .read, command := s.setup.readCommand
          address := some (flashOf s (f.block * 4096 + f.first * 32) c), readLength := f.count * 32, sent := [] } }
  | .updateOp _ =>
    { s.engine c with
      state := .active, step := .enableWrite
      transaction := some
        { kind := .enableWrite, command := s.setup.enableWriteCommand, address := none, readLength := 0, sent := [] } }

/-- R113: the engine of a channel once the bytes of its IDENT are judged. -/
def judged (x : Engine) (maker typeCode capacity : Byte) : Engine :=
  { state := if (maker = 0xFF ∧ typeCode = 0xFF ∧ capacity = 0xFF) ∨ capacity.toNat < 20 ∨ 24 < capacity.toNat
      then .fault else .idle
    typeCode := typeCode
    capacityCode := if (maker = 0xFF ∧ typeCode = 0xFF ∧ capacity = 0xFF) ∨ capacity.toNat < 20 ∨ 24 < capacity.toNat
      then 0 else capacity
    faultReason := if (maker = 0xFF ∧ typeCode = 0xFF ∧ capacity = 0xFF) ∨ capacity.toNat < 20 ∨ 24 < capacity.toNat
      then .identBad else x.faultReason
    step := .rest, transaction := none, wakeTimer := none, pollTimer := none, operationTimer := none }

/-- R113: the alarm of a channel. -/
def alarmOf : Channel → Alarm
  | .a => .chAFault
  | .b => .chBFault

/-- R114: the engine still wakes or identifies. -/
def Identifying (x : Engine) : Prop := x.state = .waking ∨ x.state = .ident

/-- R32, R33, R136 to R140: what the end of an operation stores into the chunks of its target, where it stores: the bytes,
by their offset in the block. -/
def TargetStored (t : State) (e : Fin 16) (op : UpdateOp) (data : List Byte) : Prop :=
  match op.kind with
  | .program =>
    (∀ i : Fin 256, i.val < data.length →
      t.chunks.read (e.val * 4096 + op.target % 4096 / 32 * 32 + i.val) = data.getD i 0) ∧
      ∀ chunk : Fin 128, op.target % 4096 / 32 ≤ chunk.val → chunk.val < op.target % 4096 / 32 + 8 →
        (t.entry e).valid.getLsbD chunk = true
  | .erase =>
    (∀ i, i < 4096 → t.chunks.read (e.val * 4096 + i) = 0xFF) ∧ (t.entry e).valid = BitVec.allOnes 128

/-- R32, R33: the chunks of the target are left invalid. -/
def TargetInvalid (t : State) (e : Fin 16) (op : UpdateOp) : Prop :=
  match op.kind with
  | .program =>
    ∀ chunk : Fin 128, op.target % 4096 / 32 ≤ chunk.val → chunk.val < op.target % 4096 / 32 + 8 →
      (t.entry e).valid.getLsbD chunk = false
  | .erase => (t.entry e).valid = 0

/-- R32: the flags of the chunks outside the page of a PROGRAM are as they were. -/
def FlagsKeptOutside (s t : State) (e : Fin 16) (op : UpdateOp) : Prop :=
  op.kind = .program → ∀ chunk : Fin 128,
    chunk.val < op.target % 4096 / 32 ∨ op.target % 4096 / 32 + 8 ≤ chunk.val →
    (t.entry e).valid.getLsbD chunk = (s.entry e).valid.getLsbD chunk

/-- The block of an operation's target. -/
def targetBlock (op : UpdateOp) : Nat := match op.kind with | .program => op.target / 4096 | .erase => op.target

/-- R32, R33: the chunk store as it was outside the target, whose bytes `data` are stored, and everywhere where the target's
block is absent. -/
def StoreKeptOutside (s t : State) (op : UpdateOp) (data : List Byte) : Prop :=
  (s.findBlock (targetBlock op) = none → t.chunks = s.chunks) ∧
    ∀ e, s.findBlock (targetBlock op) = some e → ∀ address,
      (match op.kind with
       | .program =>
         address < e.val * 4096 + op.target % 4096 / 32 * 32 ∨
           e.val * 4096 + op.target % 4096 / 32 * 32 + data.length ≤ address
       | .erase => address < e.val * 4096 ∨ e.val * 4096 + 4096 ≤ address) →
      t.chunks.read address = s.chunks.read address

/-- R132: the outcome field of channel `d` once the phase on channel `c` has ended. -/
def outcomeOn (c d : Channel) (old new : PhaseOutcome) : PhaseOutcome := if c = d then new else old

/-- R11, R139, R140: MIRROR has degraded: the mode in effect, the alarm, the lost engine. -/
def Degraded (s t : State) (lost : Channel) (outcome : PhaseOutcome) : Prop :=
  t.link.mode = some (match lost with | .a => Mode.singleB | .b => Mode.singleA) ∧ AlarmRaised s t .mirrorDegraded ∧
    t.link.imageSize = s.link.imageSize ∧
    (outcome ≠ .timeout → (t.engine lost).state = .off ∧ (t.engine lost).faultReason = .none) ∧
    (outcome = .timeout → (t.engine lost).faultReason = .timeout ∧
      ((t.engine lost).state = .fault ∨ (s.link.state = .stopping ∧ (t.engine lost).state = .off))) ∧
    (t.engine lost).typeCode = (s.engine lost).typeCode ∧ (t.engine lost).capacityCode = (s.engine lost).capacityCode

/-- R94, R138: the channel of the first phase. -/
def firstChannel : Phases → Channel
  | .one c => c
  | .aThenB => .a

/-- R135, R132, R94, R54: what the acceptance of an operation leaves: its record, the grant timer stopped, an UPDATE_OP of
its origin in the queue, behind the records there, waiting or in service already; no pending fill inside the target, and
each read that waited for one of those alone (R40) HELD_UPDATE with its deadline. Where the removal frees an entry or the
demand fill slot of a HELD_VICTIM read, the HELD_VICTIM reads are taken again (R57), and the cursors act (R75). -/
def Accepted (s t : State) (kind : OpKind) (target : Nat) (p : Port) (phases : Phases) : Prop :=
  t.update = { s.update with
      op := some
        { kind := kind, target := target, origin := p, phases := phases, current := .first, outcomeA := .none,
          outcomeB := .none, verifyA := none }
      grantTimer := none } ∧
    (∃ r ∈ t.queue, r.origin = p ∧ r.cls = .demand ∧ r.level = s.levelOf p ∧ r.target = .only (firstChannel phases) ∧
      ((r.state = .pending ∧ r.work = .updateOp false) ∨
        (r.state = .inService (firstChannel phases) ∧ r.work = .updateOp true))) ∧
    (∀ r ∈ t.queue, r.isPending = true → ∀ f, r.fill = some f → t.fillInTarget f = false) ∧
    (∀ r ∈ s.queue, r.isPending = true → ∀ f, r.fill = some f → t.fillInTarget f = true →
      ∀ q, f.waiters.get q = true → (∀ other ∈ s.queue, other.waiters.get q = true → other = r) →
        ∀ x, (s.port q).read = some x → (t.port q).read = some { x with state := .heldUpdate }) ∧
    ((∃ r ∈ s.queue, r.isPending = true ∧ (∃ f, r.fill = some f ∧ t.fillInTarget f = true) ∧ r.isDemandOf r.origin = true ∧
        s.readIn r.origin .heldVictim = true ∧ ∀ other ∈ s.queue, other.waiters.get r.origin = false) →
      VictimsRetaken s t) ∧
    ((∃ e, (s.entry e).state = .live ∧ (s.entry e).locked = false ∧ (s.entry e).owner = none ∧ s.named e = true ∧
        ∀ r ∈ s.queue, r.names e = true → r.isPending = true ∧ ∃ f, r.fill = some f ∧ t.fillInTarget f = true) →
      VictimsRetaken s t) ∧
    ((∀ q, (s.port q).preload.running = false ∧ s.readIn q .heldVictim = false) →
      t.queue = (State.dispatch { s with
        queue := s.queue.filter (fun r => !(r.isPending && r.fill.any t.fillInTarget)) ++
          [{ origin := p, cls := .demand, level := s.levelOf p, target := .only (firstChannel phases), state := .pending
             work := .updateOp false }]
        update := t.update }).queue) ∧
    CursorsServed s t ∧ HoldsKept s t ∧ DirectoryKept s t ∧ t.chunks = s.chunks ∧ t.setup = s.setup

end Sys2Proof.Claims

open Sys2Proof Sys2Proof.Machine Sys2Proof.Safety Sys2Proof.Claims

/-! ### The machine -/

/-- A step runs the command at the front of the queue on the hub with the queue's rest. -/
def Obligations.StepRunsFrontCommand : Prop :=
  ∀ (c : Instr) (rest : List Instr) (s : State), step { s with pending := c :: rest } = exec c { s with pending := rest }

/-- R155, as log entry 3 has it: on an empty queue one REFCLK period passes; every TB_DIV periods the time base advances by
one unit, and exactly the timers whose moments have come put their expiry rows in the queue. -/
def Obligations.EmptyQueuePassesOnePeriod : Prop :=
  ∀ s : State, s.pending = [] →
    (s.inReset = true → step s = .next { s with answers := [] }) ∧
    (s.inReset = false → s.refclkCount + 1 < s.setup.tbDiv.toNat →
      step s = .next { s with answers := [], refclkCount := s.refclkCount + 1 }) ∧
    (s.inReset = false → s.setup.tbDiv.toNat ≤ s.refclkCount + 1 →
      ∃ rows, step s = .next { s with answers := [], refclkCount := 0, now := s.now + 1, pending := rows } ∧
        ∀ i, i ∈ rows ↔
          (∃ p r m, i = .readDeadline p ∧ (s.port p).read = some r ∧ r.deadline = some m ∧ m ≤ s.now + 1) ∨
          (∃ m, i = .grantTimerExpiry ∧ s.update.grantTimer = some m ∧ m ≤ s.now + 1) ∨
          (∃ c m, i = .wakeDelayExpiry c ∧ (s.engine c).wakeTimer = some m ∧ m ≤ s.now + 1) ∨
          (∃ c m, i = .pollTimerExpiry c ∧ (s.engine c).pollTimer = some m ∧ m ≤ s.now + 1) ∨
          (∃ c m, i = .operationTimerExpiry c ∧ (s.engine c).operationTimer = some m ∧ m ≤ s.now + 1))

/-- No command faults or is refused: each answers a next state. -/
def Obligations.EveryCommandAnswersANextState : Prop := ∀ (i : Instr) (s : State), ∃ t, exec i s = .next t

/-! ### The control window (spec 10) -/

/-- R166, R168, R160, R164, R62, R159, R163: what a write to each writable port register does, and all it does; a write to a
read-only register or an unlisted offset is answered DONE and discarded; an access of other than one aligned word is answered
ERROR UNALIGNED, and LAST_ERROR records the offset. -/
def Obligations.ControlAccessesActOnTheirFieldsAlone : Prop :=
  ∀ (p : Port) (w : Word) (offset : Byte) (size : Nat) (s : State), Accessible s p →
    exec (.fenceWrite p w) s =
      .next (portWritten s p { s.port p with autoFence := w.getLsbD 0, fenceMask := w.extractLsb' 8 5 }) ∧
    exec (.noticeEnableWrite p w) s =
      .next (portWritten s p { s.port p with
        enables := w.extractLsb' 0 8, vectorShift := w.extractLsb' 8 3, vectorBase := w.extractLsb' 16 16 }) ∧
    exec (.portSettingsWrite p w) s =
      .next (portWritten s p { s.port p with holdLimit := w.extractLsb' 0 12, burst := w.getLsbD 16 }) ∧
    exec (.alarmsWrite p w) s =
      .next (portWritten s p { s.port p with latched := (s.port p).latched &&& ~~~(w.extractLsb' 8 5) }) ∧
    exec (.noticePendingWrite p w) s =
      .next (portWritten s p { s.port p with
        pendingNotices := (s.port p).pendingNotices &&& ~~~(w.extractLsb' 0 8)
        repeats := (s.port p).repeats &&& ~~~(w.extractLsb' 8 8) }) ∧
    exec (.controlWriteIgnored p offset w) s = .next { s with answers := [⟨p, .done⟩] } ∧
    exec (.controlUnalignedAccess p offset size) s = .next (answeredError s p .unaligned (offset.setWidth 25))

/-- R166, 10.1, 10.4, 10.5: what a read of one aligned word of the control window answers, as the hub stands: the fields of
the register at their bits, and 0 for a command register or an unlisted offset; no answer where no access can be presented. A
read is a view of the state and changes nothing (log entry 19). UPDATE_RESULT is told for the outcomes of Table 10-3, and
PRELOAD_STATUS for the last statuses of R71. -/
def Obligations.RegistersReadAsTheirLayouts : Prop :=
  ∀ (p : Port) (offset : Byte) (s : State),
    (¬ Accessible s p ∨ offset.toNat % 4 ≠ 0 → readControl s p offset = none) ∧
    (Accessible s p →
      readControl s p 0x00 = some (layout
        [(0, 2, portNumber p), (8, 1, (s.port .cp0).attached.toNat), (9, 1, (s.port .cp1).attached.toNat),
          (10, 1, (s.port .cp2).attached.toNat), (11, 1, (s.port .cp3).attached.toNat), (24, 4, stagedCount s / 32)]) ∧
      readControl s p 0x04 = some (layout
        [(0, 5, codeNumber (s.port p).result.code), (8, 8, (s.port p).result.source.toNat)]) ∧
      readControl s p 0x08 = some (layout
        [(0, 25, (s.port p).lastError.address.toNat), (28, 4, reasonNumber (s.port p).lastError.reason)]) ∧
      readControl s p 0x0C = some (layout
        [(0, 3, linkNumber s.link.state), (4, 3, modeNumber s.link.mode), (8, 2, s.link.strap.toNat),
          (12, 1, s.link.takeoverStopped.toNat), (13, 1, s.link.firstBringupDone.toNat)]) ∧
      readControl s p 0x10 = some (layout [(0, 26, s.link.imageSize)]) ∧
      readControl s p 0x14 = some (layout [(0, 5, s.alarms.toNat), (8, 5, (s.port p).latched.toNat)]) ∧
      readControl s p 0x18 = some (layout
        [(0, 1, (s.port p).autoFence.toNat), (8, 5, (s.port p).fenceMask.toNat), (16, 1, (s.port p).fenced.toNat)]) ∧
      readControl s p 0x1C = some (layout
        [(0, 8, (s.port p).pendingNotices.toNat), (8, 8, (s.port p).repeats.toNat)]) ∧
      readControl s p 0x20 = some (layout
        [(0, 8, (s.port p).enables.toNat), (8, 3, (s.port p).vectorShift.toNat), (16, 16, (s.port p).vectorBase.toNat)]) ∧
      readControl s p 0x24 = some (layout [(0, 16, (s.port p).noticeVector.toNat)]) ∧
      readControl s p 0x28 = some (layout [(0, 12, (s.port p).holdLimit.toNat), (16, 1, (s.port p).burst.toNat)]) ∧
      readControl s p 0x2C = some (layout
        [(0, 1, s.update.holder.isSome.toNat), (1, 2, ownerNumber s.update.holder), (3, 1, (decide (Holds s p)).toNat),
          (4, 1, s.update.orphaned.toNat), (5, 2, operationNumber s),
          (7, 1, (s.update.op.any (fun op => op.kind == .erase)).toNat),
          (8, 1, (s.update.op.any (fun op => op.current == .second)).toNat),
          (9, 1, s.update.stagedPage.isSome.toNat), (10, 17, s.update.stagedPage.getD 0 / 256),
          (27, 5, stagedCount s)]) ∧
      (∀ row ∈ outcomeTable,
        s.update.result.outcome = row.1 → s.update.result.outcomeA = row.2.1 → s.update.result.outcomeB = row.2.2.1 →
        readControl s p 0x30 = some (layout
          [(0, 17, s.update.result.target), (17, 2, kindNumber s.update.result.kind), (19, 5, row.2.2.2),
            (24, 8, s.update.result.sequence.toNat)])) ∧
      (∀ row ∈ statusTable, (s.port p).preload.lastStatus = row.1 →
        let valid := if (s.port p).preload.running then validChunks (s.entry (s.port p).preload.entry) else 0
        readControl s p 0x34 = some (layout
          [(0, 1, (s.port p).preload.running.toNat), (1, 1, (s.port p).preload.lockTaken.toNat), (4, 3, row.2),
            (7, 1, valid / 128), (8, 4, (s.port p).preload.entry.val), (12, 13, (s.port p).preload.block),
            (25, 7, valid)])) ∧
      readControl s p 0x38 = some (layout
        [(0, 4, (List.finRange 16).countP (fun e => (s.entry e).holders.get p)), (8, 4, (s.portSetup p).quota.toNat),
          (16, 4, (List.finRange 16).countP (fun e => (s.entry e).holders.nonempty))]) ∧
      readControl s p 0x80 = some (layout
        [(0, 1, (s.port p).snapshot.taken.toNat), (4, 4, (s.port p).snapshot.index),
          (8, 2, entryNumber (s.port p).snapshot.state), (12, 1, (s.port p).snapshot.tag.isSome.toNat),
          (16, 13, (s.port p).snapshot.tag.getD 0)]) ∧
      readControl s p 0x84 = some (layout
        [(0, 8, (s.port p).snapshot.validCount), (16, 4, (s.port p).snapshot.rank)]) ∧
      readControl s p 0x88 = some (layout
        [(0, 1, ((s.port p).snapshot.holders.get .cp0).toNat), (1, 1, ((s.port p).snapshot.holders.get .cp1).toNat),
          (2, 1, ((s.port p).snapshot.holders.get .cp2).toNat), (3, 1, ((s.port p).snapshot.holders.get .cp3).toNat),
          (8, 1, (s.port p).snapshot.owner.isSome.toNat), (12, 2, ownerNumber (s.port p).snapshot.owner)]) ∧
      readControl s p 0x8C = some (layout
        [(0, 1, (s.port p).snapshot.inService.toNat), (8, 4, (s.port p).snapshot.pendingCount),
          (16, 1, (s.port p).snapshot.underUpdate.toNat)]) ∧
      readControl s p 0x90 = some (layout (engineFields (s.engine .a))) ∧
      readControl s p 0x94 = some (layout (engineFields (s.engine .b))) ∧
      (∀ index : Fin 16, readControl s p (BitVec.ofNat 8 (0xC0 + 4 * index.val)) =
        some (layout (setupFields s.setup index.val))) ∧
      (offset.toNat % 4 = 0 →
        offset.toNat = 0x3C ∨ (0x40 ≤ offset.toNat ∧ offset.toNat ≤ 0x7C) ∨
          (0x98 ≤ offset.toNat ∧ offset.toNat ≤ 0xBC) →
        readControl s p offset = some 0))

/-- R43, R130, R147, R156, R166: an access at a port that is detached, that a read stalls, or while HUB_RESET is low is
ignored, whatever it is: no answer, and nothing changes. A stalled bus presents no access (log entry 5). -/
def Obligations.AccessesWithoutABusAreIgnored : Prop :=
  ∀ (c : Instr) (p : Port) (s : State), busPort c = some p → ¬ Accessible s p → exec c s = .next { s with answers := [] }

/-- R162: FENCE CLEAR. -/
def Obligations.FenceClearByAlarms : Prop :=
  ∀ (p : Port) (w : Word) (s : State), Accessible s p →
    exec (.fenceClear p w) s = .next (
      if (s.port p).autoFence = true ∧ (s.alarms &&& ~~~(s.port p).fenceMask) ≠ 0 then refused s p .alarmActive 0x78
      else finished { s with ports := s.ports.set p { s.port p with fenced := false }, answers := [] } p .ok 0x78)

/-! ### Locks and preloads (spec 04) -/

/-- R65: LOCK, its checks in order and its effect. -/
def Obligations.LockByChecksInOrder : Prop :=
  ∀ (p : Port) (w : Word) (s : State), Accessible s p →
    exec (.lock p w) s = .next (
      if s.link.imageSize / 4096 ≤ w.toNat then refused s p .range 0x40
      else if s.update.op.any (fun op => op.kind == .erase && op.target == w.toNat) then
        refused s p .heldForUpdate 0x40
      else
        match s.findBlock w.toNat with
        | some e =>
          let mru := { s with lru := e :: s.lru.erase e, answers := [] }
          let added := { mru with
            entries := s.entries.set e { s.entry e with holders := (s.entry e).holders.set p true } }
          if (s.entry e).holders.get p then finished mru p .ok 0x40
          else if (s.portSetup p).quota.toNat ≤ s.holdCount p then refused s p .quota 0x40
          else if (s.entry e).locked then finished added p .ok 0x40
          else if 12 ≤ s.lockedCount then refused s p .full 0x40
          else finished added p .ok 0x40
        | none =>
          if (s.portSetup p).quota.toNat ≤ s.holdCount p then refused s p .quota 0x40
          else if 12 ≤ s.lockedCount then refused s p .full 0x40
          else
            match s.victim with
            | none => refused s p .noEntry 0x40
            | some e =>
              finished { s with
                entries := s.entries.set e
                  { state := .live, tag := some w.toNat, valid := 0, holders := (PerPort.all false).set p true,
                    owner := none }
                lru := e :: s.lru.erase e, answers := [] } p .ok 0x40)

/-- R68, R27, R55, R57: UNLOCK. Where the removal makes no entry eligible it changes the holder set alone; where it does,
the HELD_VICTIM reads are taken again in one pass in ascending port order, a dispatch follows (R90), and the holders of
every other port stay. -/
def Obligations.UnlockRemovesTheHolder : Prop :=
  ∀ (p : Port) (w : Word) (s : State), Accessible s p →
    (s.link.imageSize / 4096 ≤ w.toNat → exec (.unlock p w) s = .next (refused s p .range 0x44)) ∧
    (w.toNat < s.link.imageSize / 4096 → s.heldEntry p w.toNat = none →
      exec (.unlock p w) s = .next (refused s p .notHeld 0x44)) ∧
    ∀ e, w.toNat < s.link.imageSize / 4096 → s.heldEntry p w.toNat = some e →
      (∃ t, exec (.unlock p w) s = .next t ∧ (t.port p).result = ⟨.ok, 0x44⟩ ∧
        t.update.grantTimer = timerAfter s p ∧ t.answers.getLast? = some ⟨p, .done⟩ ∧
        HoldsKeptBut s t p (fun d => d == e) ∧ (FreeBut s e p → VictimsRetaken s t) ∧
        DirectoryKept s t ∧ Undisturbed s t) ∧
      ((∃ q, q ≠ p ∧ (s.entry e).holders.get q = true) ∨ (s.entry e).owner.isSome ∨ s.named e = true →
        exec (.unlock p w) s = .next (finished { s with
          entries := s.entries.set e { s.entry e with holders := (s.entry e).holders.set p false }
          answers := [] } p .ok 0x44)) ∧
      (FreeBut s e p → (∀ q, (s.port q).preload.running = false) → s.link.state ≠ .stopping →
        exec (.unlock p w) s = .next (finished (State.dispatch (takenInPortOrder { s with
          entries := s.entries.set e { s.entry e with holders := (s.entry e).holders.set p false }
          answers := [] } (fun q => s.readIn q .heldVictim))) p .ok 0x44))

/-- R69, R27, R57: UNLOCK ALL removes the port from every holder set, and is always OK; where that makes an entry eligible,
the HELD_VICTIM reads are taken again. -/
def Obligations.UnlockAllRemovesEveryHold : Prop :=
  ∀ (p : Port) (w : Word) (s : State), Accessible s p →
    ∃ t, exec (.unlockAll p w) s = .next t ∧ (t.port p).result = ⟨.ok, 0x48⟩ ∧
      t.update.grantTimer = timerAfter s p ∧ t.answers.getLast? = some ⟨p, .done⟩ ∧
      HoldsKeptBut s t p (fun _ => true) ∧
      (∀ e, (s.entry e).holders.get p = true → FreeBut s e p → VictimsRetaken s t) ∧
      DirectoryKept s t ∧ Undisturbed s t

/-- R72: a PRELOAD that a check refuses changes nothing but RESULT. -/
def Obligations.PreloadRefusedByChecksInOrder : Prop :=
  ∀ (p : Port) (w : Word) (s : State) (code : ResultCode), Accessible s p →
    preloadCheck s p (w.extractLsb' 0 31).toNat (w.getLsbD 31) = some code →
    exec (.preload p w) s = .next (refused s p code 0x4C)

/-- R73, R74: a PRELOAD that passes its checks on a block that is not wholly valid runs: the port's preload state, the
entry's block, flags, owner and holders; every other entry stays. Where the cursors of the other ports wait, the entry moves
to MRU and the cursor of the port acts. -/
def Obligations.PreloadTakenRuns : Prop :=
  ∀ (p : Port) (w : Word) (s : State), Accessible s p →
    preloadCheck s p (w.extractLsb' 0 31).toNat (w.getLsbD 31) = none →
    (∀ e, s.findBlock (w.extractLsb' 0 31).toNat = some e → (s.entry e).allValid = false) →
    ∃ t e, exec (.preload p w) s = .next t ∧ (t.port p).result = ⟨.ok, 0x4C⟩ ∧
      (s.findBlock (w.extractLsb' 0 31).toNat = some e ∨
        (s.findBlock (w.extractLsb' 0 31).toNat = none ∧ s.victim = some e)) ∧
      (t.port p).preload =
        { running := true, block := (w.extractLsb' 0 31).toNat, entry := e, lockTaken := w.getLsbD 31,
          lastStatus := (s.port p).preload.lastStatus } ∧
      (t.entry e).state = .live ∧ (t.entry e).tag = some (w.extractLsb' 0 31).toNat ∧ (t.entry e).owner = some p ∧
      (t.entry e).holders.get p = (w.getLsbD 31 || (s.heldEntry p (w.extractLsb' 0 31).toNat).isSome) ∧
      (s.findBlock (w.extractLsb' 0 31).toNat = some e →
        (t.entry e).valid = (s.entry e).valid ∧ ∀ q, q ≠ p → (t.entry e).holders.get q = (s.entry e).holders.get q) ∧
      (s.findBlock (w.extractLsb' 0 31).toNat = none →
        (t.entry e).valid = 0 ∧ ∀ q, q ≠ p → (t.entry e).holders.get q = false) ∧
      (∀ d, d ≠ e → ContentKept s t d ∧
        ((s.entry d).state = .live → ∀ q, (t.entry d).holders.get q = (s.entry d).holders.get q)) ∧
      ((∀ q, q ≠ p → CursorWaits s q ∧ ((s.port q).preload.running = true → (s.port q).preload.entry ≠ e)) →
        t.lru = e :: s.lru.erase e ∧ CursorActed s t p e (w.extractLsb' 0 31).toNat) ∧
      t.update.grantTimer = timerAfter s p ∧ Undisturbed s t

/-- R73, R77, R79, R22, R27: a PRELOAD that passes its checks on a wholly valid block ends OK in the same event, with
PRELOAD_DONE. With the lock flag the port becomes a holder; the entry keeps its tag, its flags and the other holders, has no
preload owner and moves to MRU. Where the end leaves it eligible, the HELD_VICTIM reads are taken again, and one of them may
get it. -/
def Obligations.PreloadOfAValidBlockEndsAtOnce : Prop :=
  ∀ (p : Port) (w : Word) (s : State) (e : Fin 16), Accessible s p →
    preloadCheck s p (w.extractLsb' 0 31).toNat (w.getLsbD 31) = none →
    s.findBlock (w.extractLsb' 0 31).toNat = some e → (s.entry e).allValid = true →
    ∃ t, exec (.preload p w) s = .next t ∧ (t.port p).result = ⟨.ok, 0x4C⟩ ∧
      (t.port p).preload =
        { running := false, block := (w.extractLsb' 0 31).toNat, entry := e, lockTaken := w.getLsbD 31,
          lastStatus := .ok } ∧
      (t.port p).pendingNotices.getLsbD 4 = true ∧
      (let left : Entry := { s.entry e with
         holders := if w.getLsbD 31 then (s.entry e).holders.set p true else (s.entry e).holders, owner := none }
       (t.entry e = left ∨ (left.locked = false ∧ GotByARead s t e)) ∧
         (left.locked = true → PreloadsStand s → t.lru = e :: s.lru.erase e) ∧
         (left.locked = false → s.named e = false → VictimsRetaken s t)) ∧
      (LruHoldsEachEntryOnce s → LruLeft s t (e :: s.lru.erase e)) ∧
      (∀ d, d ≠ e → ContentKept s t d ∧
        ((s.entry d).state = .live → ∀ q, (t.entry d).holders.get q = (s.entry d).holders.get q)) ∧
      t.update.grantTimer = timerAfter s p ∧ Undisturbed s t

/-- R78, R79, R27, R57: PRELOAD CANCEL ends a running preload CANCELLED, and is refused NOT_HELD when none runs. The entry
keeps its holders, and no pending fill of the preload remains. Where the end leaves the entry without a holder, an owner and
a record, the HELD_VICTIM reads are taken again. -/
def Obligations.PreloadCancelEndsThePreload : Prop :=
  ∀ (p : Port) (w : Word) (s : State), Accessible s p →
    ((s.port p).preload.running = false → exec (.preloadCancel p w) s = .next (refused s p .notHeld 0x50)) ∧
    ((s.port p).preload.running = true →
      ∃ t, exec (.preloadCancel p w) s = .next t ∧ (t.port p).result = ⟨.ok, 0x50⟩ ∧
        (t.port p).preload = { (s.port p).preload with running := false, lastStatus := .cancelled } ∧
        (t.port p).pendingNotices.getLsbD 4 = true ∧
        (∀ r ∈ t.queue, r.isPreloadOf p = true → r.isPending = false) ∧
        (∀ e, e = (s.port p).preload.entry → (s.entry e).state = .live → (s.entry e).owner = some p →
          (s.entry e).locked = false → (∀ r ∈ s.queue, r.names e = true → r.isPreloadOf p = true ∧ r.isPending = true) →
          VictimsRetaken s t) ∧
        HoldsKeptBut s t p (fun _ => false) ∧ DirectoryKept s t ∧ t.update.grantTimer = timerAfter s p ∧ Undisturbed s t)

/-- R38: DIR PICK takes a snapshot of one entry, and is refused RANGE above 15. -/
def Obligations.DirPickTakesASnapshot : Prop :=
  ∀ (p : Port) (w : Word) (s : State), Accessible s p →
    (∀ e : Fin 16, w.toNat = e.val →
      exec (.dirPick p w) s = .next (finished { s with
        ports := s.ports.set p { s.port p with snapshot :=
          { taken := true, index := e.val, state := (s.entry e).state, tag := (s.entry e).tag
            validCount := (List.range 128).countP (fun c => (s.entry e).valid.getLsbD c)
            holders := (s.entry e).holders, owner := (s.entry e).owner, rank := s.lru.idxOf e
            inService := s.queue.any (fun r => r.names e && !r.isPending)
            pendingCount := s.queue.countP (fun r => r.names e && r.isPending)
            underUpdate :=
              (s.entry e).state == .live && s.update.op.any (fun op => (s.entry e).tag == some op.block) } }
        answers := [] } p .ok 0x7C)) ∧
    (16 ≤ w.toNat → exec (.dirPick p w) s = .next (refused s p .range 0x7C))

/-! ### The grant, staging and update commands (spec 07) -/

/-- R124: CLAIM, the three rows of its table; a newly granted port finds the staging buffer closed and no operation. The law
of R123 is a statement of its own. -/
def Obligations.ClaimByTable : Prop :=
  ∀ (p : Port) (w : Word) (s : State), Accessible s p → GrantLaw s → OrphanedOnlyDuringOperation s →
    exec (.claim p w) s = .next (
      if s.update.holder = none then
        finished { s with update := { s.update with holder := some p }, answers := [] } p .ok 0x54
      else if s.update.holder = some p ∧ s.update.orphaned = false then refused s p .ok 0x54
      else refused s p .grantHeld 0x54) ∧
    (s.update.holder = none → s.update.stagedPage = none ∧ s.update.op = none ∧ s.update.orphaned = false)

/-- R125: RELEASE, the three rows of its table. -/
def Obligations.ReleaseByTable : Prop :=
  ∀ (p : Port) (w : Word) (s : State), Accessible s p →
    exec (.release p w) s = .next (
      if ¬ Holds s p then refused s p .notGranted 0x58
      else if s.update.op.isSome then refused s p .busy 0x58
      else finished { s with update := released s.update, answers := [] } p .ok 0x58)

/-- R129: STAGE OPEN, its checks in order and its effect. -/
def Obligations.StageOpenByChecksInOrder : Prop :=
  ∀ (p : Port) (w : Word) (s : State), Accessible s p →
    exec (.stageOpen p w) s = .next (
      if ¬ Holds s p then refused s p .notGranted 0x5C
      else if s.update.op.isSome then refused s p .busy 0x5C
      else if w.toNat % 256 ≠ 0 ∨ s.link.imageSize ≤ w.toNat then refused s p .range 0x5C
      else finished { s with
        update := { s.update with stagedPage := some w.toNat, written := 0 }, answers := [] } p .ok 0x5C)

/-- R130: an image-window write that a check refuses is answered ERROR and changes neither the data nor the map; from the
holder it restarts the grant timer all the same (R126). A write of several accesses, however many bytes they have together,
is refused by the fourth check where the first three let it pass. -/
def Obligations.ImageWriteRefusedByChecksInOrder : Prop :=
  ∀ (p : Port) (x : ImageAddress) (accesses : List (List Byte)) (s : State) (reason : ErrorReason), Accessible s p →
    writeCheck s p x.toNat accesses = some reason →
    exec (.imageWrite p x accesses) s = .next { answeredError s p reason x with
      update := { s.update with grantTimer := timerAfter s p } }

/-- R130: an image-window write that passes its checks is a single access; it places each byte at its offset in the page and
sets its written flag, and every other offset keeps its byte and its flag. -/
def Obligations.ImageWriteStagesItsBytes : Prop :=
  ∀ (p : Port) (x : ImageAddress) (accesses : List (List Byte)) (s : State), Accessible s p →
    writeCheck s p x.toNat accesses = none →
    ∃ t, exec (.imageWrite p x accesses) s = .next t ∧ ∃ bytes, accesses = [bytes] ∧
      t = { s with
        update := { s.update with
          stagingData := t.update.stagingData, written := t.update.written, grantTimer := timerAfter s p }
        answers := [⟨p, .done⟩] } ∧
      ∀ offset : Fin 256,
        (t.update.stagingData.read offset =
            if x.toNat % 256 ≤ offset.val ∧ offset.val < x.toNat % 256 + bytes.length then
              bytes.getD (offset.val - x.toNat % 256) 0
            else s.update.stagingData.read offset) ∧
        (t.update.written.getLsbD offset =
          (s.update.written.getLsbD offset ||
            decide (x.toNat % 256 ≤ offset.val ∧ offset.val < x.toNat % 256 + bytes.length)))

/-- R132, R133, R134: a PROGRAM or ERASE that a check refuses changes nothing but RESULT and the grant timer. -/
def Obligations.UpdateRefusedByChecksInOrder : Prop :=
  ∀ (p : Port) (w : Word) (s : State) (code : ResultCode), Accessible s p →
    (programCheck s p = some code → exec (.program p w) s = .next (refused s p code 0x60)) ∧
    (eraseCheck s p w.toNat = some code → exec (.erase p w) s = .next (refused s p code 0x64))

/-- R133, R134, R135: an accepted PROGRAM of the staged page, and an accepted ERASE of a block. -/
def Obligations.ProgramAndEraseAccepted : Prop :=
  ∀ (p : Port) (w : Word) (s : State), Accessible s p →
    (∀ page, s.update.stagedPage = some page → programCheck s p = none →
      ∃ t, exec (.program p w) s = .next t ∧ (t.port p).result = ⟨.ok, 0x60⟩ ∧
        Accepted s t .program page p (phasesFor s page)) ∧
    (eraseCheck s p w.toNat = none →
      ∃ t, exec (.erase p w) s = .next t ∧ (t.port p).result = ⟨.ok, 0x64⟩ ∧
        Accepted s t .erase w.toNat p (phasesFor s (w.toNat * 4096)))

/-- R145, R34, R23: DROP UNLOCKED. Every LIVE entry without a holder is dropped and goes to the LRU end, and every locked one
keeps its tag, its chunks and its holders. The law of the LRU order is a statement of its own. -/
def Obligations.DropUnlockedEmptiesUnlockedEntries : Prop :=
  ∀ (p : Port) (w : Word) (s : State), Accessible s p →
    (¬ Holds s p → exec (.dropUnlocked p w) s = .next (refused s p .notGranted 0x68)) ∧
    (Holds s p → s.update.op.isSome → exec (.dropUnlocked p w) s = .next (refused s p .busy 0x68)) ∧
    (Holds s p → s.update.op = none →
      ∃ t, exec (.dropUnlocked p w) s = .next t ∧ (t.port p).result = ⟨.ok, 0x68⟩ ∧
        (∀ e, (s.entry e).state = .live → (s.entry e).locked = false →
          (t.entry e).valid = 0 ∧ (t.entry e).locked = false ∧ EntryDropped s t e) ∧
        (∀ e, (s.entry e).state = .live → (s.entry e).locked = true →
          (t.entry e).state = .live ∧ (t.entry e).tag = (s.entry e).tag ∧ (t.entry e).valid = (s.entry e).valid ∧
            (t.entry e).holders = (s.entry e).holders) ∧
        (LruHoldsEachEntryOnce s →
          LruLeft s t (movedToEnd s.lru (fun e => (s.entry e).state == .live && !(s.entry e).locked))) ∧
        t.update.grantTimer = timerAfter s p ∧ Undisturbed s t)

/-- R146, R34, R23: DROP ALL. Every LIVE entry is dropped, the LRU order stays but for reads taken again, and IMAGE_LOST is
raised to each attached port that held at least one lock. -/
def Obligations.DropAllEmptiesEveryEntry : Prop :=
  ∀ (p : Port) (w : Word) (s : State), Accessible s p →
    (¬ Holds s p → exec (.dropAll p w) s = .next (refused s p .notGranted 0x6C)) ∧
    (Holds s p → s.update.op.isSome → exec (.dropAll p w) s = .next (refused s p .busy 0x6C)) ∧
    (Holds s p → s.update.op = none →
      ∃ t, exec (.dropAll p w) s = .next t ∧ (t.port p).result = ⟨.ok, 0x6C⟩ ∧
        (∀ e, (s.entry e).state = .live →
          (t.entry e).valid = 0 ∧ (t.entry e).locked = false ∧ EntryDropped s t e) ∧
        (LruHoldsEachEntryOnce s → LruLeft s t s.lru) ∧
        (∀ q, (s.port q).attached = true → 0 < s.holdCount q → (t.port q).pendingNotices.getLsbD 0 = true) ∧
        (∀ q, s.holdCount q = 0 → (t.port q).pendingNotices.getLsbD 0 = (s.port q).pendingNotices.getLsbD 0) ∧
        t.update.grantTimer = timerAfter s p ∧ Undisturbed s t)

/-- R127: the grant timer's expiry. -/
def Obligations.GrantTimerExpiryEndsTheGrant : Prop :=
  ∀ (p : Port) (moment : Nat) (s : State), s.inReset = false → s.update.grantTimer = some moment →
    s.update.holder = some p →
    exec .grantTimerExpiry s =
      .next (State.raise { s with update := released s.update, now := max s.now moment, answers := [] } p .grantExpired)

/-! ### Image reads (spec 03) -/

/-- R42 to R47, R57: the reads that are answered or held at arrival. A dispatch ends each event (R90). A read taken again is
evaluated as one that arrives, but keeps its deadline (R55). -/
def Obligations.ImageReadAnsweredOrHeldAtArrival : Prop :=
  ∀ (p : Port) (x : ImageAddress) (n : Nat) (s : State), Accessible s p →
    (¬ WellFormedRead x.toNat n → exec (.imageRead p x n) s = .next (answeredError s p .unaligned x)) ∧
    (WellFormedRead x.toNat n → ∀ held : OutstandingRead, held.address = x → held.beats = n →
      let again := State.retake { s with
        ports := s.ports.set p { s.port p with read := some held }, answers := [] } p
      (∀ kept, (again.port p).read = some kept → kept = { held with state := kept.state }) ∧
        exec (.imageRead p x n) s = .next (State.dispatch { again with
          ports := again.ports.set p { again.port p with
            read := (again.port p).read.map (fun kept => { kept with deadline := deadlineNow s p }) } })) ∧
    (WellFormedRead x.toNat n →
      (s.link.state = .bringup → exec (.imageRead p x n) s = .next (waiting s p x n .heldLink).dispatch) ∧
      (s.link.state ≠ .bringup → s.link.imageSize ≤ x.toNat →
        exec (.imageRead p x n) s = .next (answeredError s p .range x).dispatch) ∧
      (s.link.state ≠ .bringup → x.toNat < s.link.imageSize →
        s.inTarget (x.toNat / 4096) (x.toNat % 4096 / 32) = true →
        exec (.imageRead p x n) s = .next (waiting s p x n .heldUpdate).dispatch) ∧
      (ReachesLookup s x.toNat → ∀ e, Hit s x.toNat e →
        exec (.imageRead p x n) s = .next (State.dispatch { s with
          lru := e :: s.lru.erase e
          answers := [⟨p, .data ((List.range (4 * n)).map
            (fun i => s.chunks.read (e.val * 4096 + x.toNat % 4096 + i)))⟩] })) ∧
      (ReachesLookup s x.toNat → Miss s x.toNat →
        ((s.port p).fenced = true → exec (.imageRead p x n) s = .next (answeredError s p .fenced x).dispatch) ∧
        ((s.port p).fenced = false → s.link.state ≠ .opened ∨ s.hasUsableChannel x.toNat = false →
          exec (.imageRead p x n) s = .next (answeredError s p .linkDown x).dispatch) ∧
        (MayFill s p x.toNat →
          (∀ e, s.findBlock (x.toNat / 4096) = some e → s.covered e (x.toNat % 4096 / 32) = false) →
          s.demandSlotBusy p = true ∨ (s.findBlock (x.toNat / 4096) = none ∧ s.victim = none) →
          exec (.imageRead p x n) s = .next (waiting s p x n .heldVictim).dispatch)))

/-- R49: a miss on a chunk that a record covers joins the record: the port becomes a waiter, the class DEMAND, and the level
is raised to the port's. -/
def Obligations.ImageReadJoinsTheCoveringRecord : Prop :=
  ∀ (p : Port) (x : ImageAddress) (n : Nat) (s : State) (e : Fin 16) (before after : List Record) (r : Record) (f : Fill),
    Accessible s p → WellFormedRead x.toNat n → ReachesLookup s x.toNat → Miss s x.toNat → MayFill s p x.toNat →
    s.findBlock (x.toNat / 4096) = some e → s.queue = before ++ r :: after → r.work = .fill f →
    r.covers e (x.toNat % 4096 / 32) = true → (∀ q ∈ before, q.covers e (x.toNat % 4096 / 32) = false) →
    exec (.imageRead p x n) s = .next (State.dispatch { waiting s p x n .waitingFill with
      queue := before ++
        { r with
          cls := .demand, level := max r.level (s.levelOf p)
          work := .fill { f with waiters := f.waiters.set p true } } :: after })

/-- R51: a miss that neither joins nor is held creates a DEMAND_FILL, on the present entry or on the victim, which R26 gives
to the block. An entry that no record names (R16 for an EMPTY one, R24 for a LIVE one) gets a whole burst. -/
def Obligations.ImageReadCreatesADemandFill : Prop :=
  ∀ (p : Port) (x : ImageAddress) (n : Nat) (s : State) (e : Fin 16),
    Accessible s p → WellFormedRead x.toNat n → ReachesLookup s x.toNat → Miss s x.toNat → MayFill s p x.toNat →
    s.demandSlotBusy p = false →
    let record (count : Nat) : Record :=
      { origin := p, cls := .demand, level := s.levelOf p
        target := if s.link.mode = some .mirror then .either else if s.channelOf (x.toNat / 32 * 32) .a then .only .a else .only .b
        state := .pending
        work := .fill
          { kind := .demand, entry := e, block := x.toNat / 4096, first := x.toNat % 4096 / 32, count := count
            waiters := (PerPort.all false).set p true } }
    (s.findBlock (x.toNat / 4096) = some e → s.covered e (x.toNat % 4096 / 32) = false →
      exec (.imageRead p x n) s = .next (State.dispatch { waiting s p x n .waitingFill with
        queue := s.queue ++
          [record (if (s.port p).burst then s.burstCount e (x.toNat % 4096 / 32) else 1)] })) ∧
    (s.findBlock (x.toNat / 4096) = none → s.victim = some e →
      ∃ count, 1 ≤ count ∧ x.toNat % 4096 / 32 % 4 + count ≤ 4 ∧ ((s.port p).burst = false → count = 1) ∧
        ((s.port p).burst = true → s.named e = false → count = 4 - x.toNat % 4096 / 32 % 4) ∧
        exec (.imageRead p x n) s = .next (State.dispatch { waiting s p x n .waitingFill with
          entries := s.entries.set e
            { state := .live, tag := some (x.toNat / 4096), valid := 0, holders := PerPort.all false, owner := none }
          lru := e :: s.lru.erase e
          queue := s.queue ++ [record count] }))

/-- R52: the burst of a fill from a chunk ends with the quad, or before the first chunk that is valid or covered. -/
def Obligations.BurstStopsAtTheQuadOrAHeldChunk : Prop :=
  ∀ (s : State) (e : Fin 16) (c : Nat),
    1 ≤ s.burstCount e c ∧ c % 4 + s.burstCount e c ≤ 4 ∧
      (∀ i, 1 ≤ i → i < s.burstCount e c →
        (s.entry e).valid.getLsbD (c + i) = false ∧ s.covered e (c + i) = false) ∧
      (c % 4 + s.burstCount e c < 4 →
        (s.entry e).valid.getLsbD (c + s.burstCount e c) = true ∨ s.covered e (c + s.burstCount e c) = true)

/-- R60: the deadline of a read: RETRY, the port leaves its record, whose level is recomputed; LAST_ERROR, the directory and
every other field of the records stay. An expiry says that its moment has come (log entry 4). -/
def Obligations.ReadDeadlineAnswersRetry : Prop :=
  ∀ (p : Port) (r : OutstandingRead) (moment : Nat) (s : State), s.inReset = false → (s.port p).read = some r →
    r.deadline = some moment →
    ∃ queue, exec (.readDeadline p) s = .next { s with
        ports := s.ports.set p { s.port p with read := none }
        queue := queue, now := max s.now moment, answers := [⟨p, .retry⟩] } ∧
      List.Forall₂ (fun x y =>
        (x.waiters.get p = false → y = x) ∧
        (x.waiters.get p = true →
          y.origin = x.origin ∧ y.cls = x.cls ∧ y.target = x.target ∧ y.state = x.state ∧
            (∃ f, x.work = .fill f ∧ y.work = .fill { f with waiters := f.waiters.set p false }) ∧
            LevelOfMembers s y)) s.queue queue

/-! ### The Shared Setup and attachment (spec 08) -/

/-- R152, R169: a Shared Setup write that a check refuses changes nothing but RESULT and the grant timer. -/
def Obligations.SharedSetupWriteRefusedByChecksInOrder : Prop :=
  ∀ (p : Port) (index : Fin 16) (w : Word) (s : State), Accessible s p →
    (¬ Holds s p →
      exec (.sharedSetupWrite p index w) s = .next (refused s p .notGranted (BitVec.ofNat 8 (0xC0 + 4 * index.val)))) ∧
    (Holds s p → index.val ≤ 5 → s.link.state ≠ .stopped →
      exec (.sharedSetupWrite p index w) s = .next (refused s p .linkRunning (BitVec.ofNat 8 (0xC0 + 4 * index.val)))) ∧
    (Holds s p → (index.val ≤ 5 → s.link.state = .stopped) → setupValueInRange index w = false →
      exec (.sharedSetupWrite p index w) s = .next (refused s p .badValue (BitVec.ofNat 8 (0xC0 + 4 * index.val))))

/-- R169, 10.5: the values out of range, field by field, and the bits that hold no field; a word written in range reads back
as it was written, and its write changes no other word. -/
def Obligations.SharedSetupWordsByTheirFields : Prop :=
  ∀ (index : Fin 16) (w : Word),
    (setupValueInRange index w = false ↔
      (index = 0 ∧ (w.extractLsb' 0 2 = 3 ∨ w.extractLsb' 8 4 = 0 ∨ w.extractLsb' 16 6 = 0)) ∨
      (index = 1 ∧ w.extractLsb' 16 8 = 0) ∨
      (index = 2 ∧ (w.extractLsb' 0 6 = 0 ∨ w.extractLsb' 8 8 = 0)) ∨
      ((index = 7 ∨ index = 8 ∨ index = 9 ∨ index = 10) ∧ 12 < (w.extractLsb' 8 4).toNat) ∨
      ∃ bit : Fin 32, w.getLsbD bit = true ∧
        (match index.val with
         | 0 => bit.val ∉ [0, 1, 4, 5, 8, 9, 10, 11, 16, 17, 18, 19, 20, 21]
         | 1 => ¬ (bit.val < 10 ∨ (16 ≤ bit.val ∧ bit.val < 24))
         | 2 => ¬ (bit.val < 6 ∨ (8 ≤ bit.val ∧ bit.val < 16))
         | 3 => bit.val ∉ [0, 1, 2, 4, 5, 6]
         | 4 => False
         | 5 => 24 ≤ bit.val
         | 6 => 8 ≤ bit.val
         | 7 | 8 | 9 | 10 => bit.val ∉ [0, 1, 8, 9, 10, 11, 16, 17]
         | _ => True)) ∧
    (setupValueInRange index w = true → ∀ x : Setup,
      (x.write index w).word index = w ∧
        ∀ other, other ≠ index → (x.write index w).word other = x.word other)

/-- R152, R153: a performed write of a word that holds no port's fields: every field of the word takes its written value, and
the grant timer restarts with the grant timeout as it then stands. That a write of TB_DIV keeps the count of REFCLK periods
under way is the model's choice (log entry 3). -/
def Obligations.SharedSetupWritePerformed : Prop :=
  ∀ (p : Port) (index : Fin 16) (w : Word) (s : State), Accessible s p → Holds s p →
    (index.val ≤ 5 → s.link.state = .stopped) → setupValueInRange index w = true →
    (index.val ≤ 6 ∨ 11 ≤ index.val) →
    exec (.sharedSetupWrite p index w) s = .next (finished
      { s with setup := s.setup.write index w, answers := [] } p .ok (BitVec.ofNat 8 (0xC0 + 4 * index.val)))

/-- R148, R153, R154: a performed write of the word that holds a port's fields: the fields, the levels of the records the
port takes part in, the attach state. -/
def Obligations.PortSetupWritePerformed : Prop :=
  ∀ (p q : Port) (index : Fin 16) (w : Word) (s : State), Accessible s p → Holds s p →
    setupValueInRange index w = true → index.val = 7 + portNumber q →
    let condition := if w.getLsbD 16 then w.getLsbD 17 else (s.port q).portEn
    ∃ t, exec (.sharedSetupWrite p index w) s = .next t ∧
      t.setup = { s.setup with
        ports := s.setup.ports.set q
          { level := w.extractLsb' 0 2, quota := w.extractLsb' 8 4
            source := if w.getLsbD 16 then .setup else .pin, attachBit := w.getLsbD 17 } } ∧
      (t.port q).attached = condition ∧
      t.answers.getLast? = some ⟨p, .done⟩ ∧
      (q ≠ p ∨ condition = true → (t.port p).result = ⟨.ok, BitVec.ofNat 8 (0xC0 + 4 * index.val)⟩) ∧
      ((s.port q).attached = condition →
        List.Forall₂ (fun x y => y = { x with level := y.level } ∧
          (q = x.origin ∨ x.waiters.get q = true → LevelOfMembers t y) ∧
          (q ≠ x.origin → x.waiters.get q = false → y = x)) s.queue t.queue) ∧
      ((s.port q).attached = true → condition = false →
        DetachedAtOnce { s with setup := t.setup } t q)

/-- R148, R149, R150: a change of the PORT_EN line; while HUB_RESET is low only its level is kept (log entry 8). -/
def Obligations.PortEnChangeAttachesOrDetaches : Prop :=
  ∀ (p : Port) (high : Bool) (s : State),
    let kept := { s with ports := s.ports.set p { s.port p with portEn := high }, answers := [] }
    (s.inReset = true → exec (.portEnChange p high) s = .next kept) ∧
    (s.inReset = false → (s.portSetup p).source = .setup → (s.port p).attached = (s.portSetup p).attachBit →
      exec (.portEnChange p high) s = .next kept) ∧
    (s.inReset = false → (s.portSetup p).source = .pin → (s.port p).attached = high → exec (.portEnChange p high) s = .next kept) ∧
    (s.inReset = false → (s.portSetup p).source = .pin → (s.port p).attached = false → high = true →
      exec (.portEnChange p high) s = .next { s with
        ports := s.ports.set p { s.port p with portEn := true, attached := true }, answers := [] }) ∧
    (s.inReset = false → (s.portSetup p).source = .pin → (s.port p).attached = true → high = false →
      ∃ t, exec (.portEnChange p high) s = .next t ∧ (t.port p).portEn = false ∧ DetachedAtOnce s t p ∧
        (∀ q, q ≠ p → (t.port q).attached = (s.port q).attached ∧ (t.port q).result = (s.port q).result) ∧
        t.chunks = s.chunks ∧ t.setup = s.setup ∧ t.now = s.now)

/-! ### The lines and the link (spec 06, spec 08) -/

/-- R117, R118, R96, R54: LINK STOP. Pending fills end with their waiters answered ERROR LINK_DOWN, preloads end, an unstarted
operation ends STOPPED, the fills in service go on, and the link is STOPPED at once where no record is left and no engine is
ACTIVE. -/
def Obligations.LinkStopEndsPendingWork : Prop :=
  ∀ (p : Port) (w : Word) (s : State), Accessible s p →
    (¬ Holds s p → exec (.linkStop p w) s = .next (refused s p .notGranted 0x70)) ∧
    (Holds s p → s.link.state ≠ .opened → s.link.state ≠ .down →
      exec (.linkStop p w) s = .next (refused s p .linkRunning 0x70)) ∧
    (Holds s p → s.link.state = .opened ∨ s.link.state = .down →
      ∃ t, exec (.linkStop p w) s = .next t ∧ (t.port p).result = ⟨.ok, 0x70⟩ ∧
        t.link = { s.link with state := t.link.state } ∧ (t.link.state = .stopping ∨ t.link.state = .stopped) ∧
        (t.link.state = .stopped ↔
          t.queue = [] ∧ (s.engine .a).state ≠ .active ∧ (s.engine .b).state ≠ .active) ∧
        (t.link.state = .stopped → ∀ c,
          (t.engine c).typeCode = (s.engine c).typeCode ∧ (t.engine c).capacityCode = (s.engine c).capacityCode ∧
            (t.engine c).faultReason = (s.engine c).faultReason ∧ (t.engine c).state ≠ .idle ∧
            (t.engine c).state ≠ .fault ∧ ((s.engine c).state = .fault → t.alarmActive (alarmOf c) = false)) ∧
        (∀ r, r.isUpdateOp = false → (r ∈ t.queue ↔ r ∈ s.queue ∧ r.isPending = false)) ∧
        (∀ r ∈ s.queue, r.isPending = true → AnsweredLinkDown s t r) ∧
        (∀ q, (t.port q).preload.running = false ∧ PreloadEnded s t q .link ∧ t.readIn q .heldVictim = false) ∧
        (∀ op, s.update.op = some op → (∃ r ∈ s.queue, r.work = .updateOp false) →
          OperationEnded s t op .stopped op.outcomeA op.outcomeB) ∧
        ((∀ r ∈ s.queue, r.work ≠ .updateOp false) →
          t.update = { s.update with grantTimer := t.update.grantTimer }) ∧
        EntriesKeptButOwners s t ∧ t.chunks = s.chunks ∧ t.setup = s.setup ∧ t.now = s.now)

/-- R119, R112: LINK START. -/
def Obligations.LinkStartBeginsABringup : Prop :=
  ∀ (p : Port) (w : Word) (s : State), Accessible s p →
    (¬ Holds s p → exec (.linkStart p w) s = .next (refused s p .notGranted 0x74)) ∧
    (Holds s p → s.link.state ≠ .stopped → exec (.linkStart p w) s = .next (refused s p .linkRunning 0x74)) ∧
    (Holds s p → s.link.state = .stopped →
      ∃ t, exec (.linkStart p w) s = .next t ∧ (t.port p).result = ⟨.ok, 0x74⟩ ∧ BringupStarts s t ∧
        t.update = { s.update with grantTimer := timerAfter s p } ∧ t.chunks = s.chunks ∧ t.setup = s.setup ∧
        t.now = s.now ∧ t.link.strap = s.link.strap ∧ t.link.takeAck = s.link.takeAck)

/-- R120, R98, R54, R141: the takeover. While HUB_RESET is low, and in RELINQUISHED, TAKE changes nothing but the line's level
(log entry 8). -/
def Obligations.TakeAssertRelinquishesTheLink : Prop :=
  ∀ s : State,
    (s.inReset = true ∨ s.link.state = .relinquished →
      exec .takeAssert s = .next { s with link := { s.link with takeLine := true }, answers := [] }) ∧
    (s.inReset = false → s.link.state ≠ .relinquished →
      ∃ t, exec .takeAssert s = .next t ∧
        t.link = { s.link with
          state := .relinquished, takeLine := true, takeAck := true
          takeoverStopped := decide (s.link.state = .stopped) } ∧
        (∀ c, AtRest (t.engine c) .off ∧ (t.engine c).typeCode = (s.engine c).typeCode ∧
          (t.engine c).capacityCode = (s.engine c).capacityCode ∧ (t.engine c).faultReason = (s.engine c).faultReason ∧
          ((s.engine c).state = .fault → t.alarmActive (alarmOf c) = false)) ∧
        t.flashPinsDriven = false ∧ t.queue = [] ∧ (∀ r ∈ s.queue, AnsweredLinkDown s t r) ∧
        (∀ q, (t.port q).preload.running = false ∧ PreloadEnded s t q .link ∧ t.readIn q .heldVictim = false ∧
          (s.update.op.isSome → t.readIn q .heldUpdate = false) ∧
          (s.link.state = .bringup → t.readIn q .heldLink = false)) ∧
        (∀ op, s.update.op = some op →
          let serving := fun c => (s.queue.find? Record.isUpdateOp).any (fun r => r.state == .inService c)
          OperationEnded s t op .linkLost (if serving .a then .abandoned else op.outcomeA)
            (if serving .b then .abandoned else op.outcomeB)) ∧
        (s.update.op = none → t.update = s.update) ∧ AlarmRaised s t .linkTaken ∧ EntriesKeptButOwners s t ∧
        (∀ e, (t.entry e).state ≠ .draining) ∧ t.chunks = s.chunks ∧ t.setup = s.setup ∧ t.now = s.now)

/-- R121: the release of TAKE; outside RELINQUISHED it changes nothing but the line's level, and so it does while HUB_RESET is
low, where the model follows the line (log entry 8). -/
def Obligations.TakeReleaseBringsTheLinkBack : Prop :=
  ∀ s : State,
    (s.inReset = true ∨ s.link.state ≠ .relinquished →
      exec .takeRelease s = .next { s with link := { s.link with takeLine := false }, answers := [] }) ∧
    (s.inReset = false → s.link.state = .relinquished →
      ∃ t, exec .takeRelease s = .next t ∧ t.link.takeLine = false ∧ t.link.takeAck = false ∧
        t.alarmActive .linkTaken = false ∧ t.update = s.update ∧ t.chunks = s.chunks ∧ t.setup = s.setup ∧
        t.now = s.now ∧
        (s.link.takeoverStopped = true →
          t.link = { s.link with state := .stopped, takeLine := false, takeAck := false } ∧
            DirectoryLost s t) ∧
        (s.link.takeoverStopped = false → BringupStarts s t))

/-- R156: HUB_RESET low discards the reads and the records without an answer, stops the engines and drops TAKE_ACK (log entry
13), and then no timer, transaction or bus is heard. -/
def Obligations.HubResetAssertDiscardsWork : Prop :=
  ∀ s : State,
    (∃ t, exec .hubResetAssert s = .next t ∧
      t = { s with
        inReset := true, ports := t.ports, queue := [], engines := t.engines
        link := { s.link with takeAck := false }, answers := [] } ∧
      (∀ q, t.port q = { s.port q with read := none }) ∧
      ∀ c, AtRest (t.engine c) .off ∧ (t.engine c).typeCode = (s.engine c).typeCode ∧
        (t.engine c).capacityCode = (s.engine c).capacityCode ∧ (t.engine c).faultReason = (s.engine c).faultReason) ∧
    (s.inReset = true → ∀ i,
      (i ∉ [Instr.takeAssert, .takeRelease, .hubResetAssert] ∧ (∀ straps, i ≠ .hubResetEnd straps) ∧
        ∀ q high, i ≠ .portEnChange q high) →
      exec i s = .next { s with answers := [] })

/-- R156, R5, R112, R122: the end of hub reset: every register at its reset value; the straps, the attach states from the
PORT_EN lines; the link STOPPED at HOLD, in its first bring-up else, and taken over at once where TAKE is asserted. The time
base and the REFCLK count at 0 are the model's choice (log entry 3), and so is that the event is performed where HUB_RESET was
not low (log entry 14). -/
def Obligations.HubResetEndTakesResetValues : Prop :=
  ∀ (straps : BitVec 2) (s : State),
    ∃ t, exec (.hubResetEnd straps) s = .next t ∧ HubReset s t straps ∧
      (t.link.firstBringupDone = true ↔ straps ≠ 3) ∧
      (s.link.takeLine = false →
        t.alarms = 0 ∧ (∀ q, (t.port q).latched = 0 ∧ (t.port q).pendingNotices = 0) ∧ t.link.takeAck = false ∧
          t.link.takeoverStopped = false ∧
          (straps = 3 → t.link.state = .stopped ∧ ∀ c, AtRest (t.engine c) .off ∧ (t.engine c).typeCode = 0 ∧
            (t.engine c).capacityCode = 0 ∧ (t.engine c).faultReason = .none) ∧
          (straps ≠ 3 → BringupBegun { t with engines := ⟨.afterReset, .afterReset⟩ } t)) ∧
      (s.link.takeLine = true →
        t.link.state = .relinquished ∧ t.link.takeAck = true ∧ t.link.takeoverStopped = decide (straps = 3) ∧
          t.alarms = 16 ∧
          (∀ c, AtRest (t.engine c) .off ∧ (t.engine c).typeCode = 0 ∧ (t.engine c).capacityCode = 0 ∧
            (t.engine c).faultReason = .none) ∧
          ∀ q, (t.port q).latched = (if (s.port q).portEn then 16 else 0) ∧
            (t.port q).pendingNotices = (if (s.port q).portEn then 64 else 0))

/-- R112, R113: the end of a WAKE starts the wake delay, or the IDENT where the delay is 0; the delay's end starts the IDENT.
An expiry says that its moment has come (log entry 4). -/
def Obligations.WakeLeadsToIdent : Prop :=
  ∀ (c : Channel) (s : State), s.inReset = false → (s.engine c).state = .waking →
    ((s.engine c).step = .wake → s.setup.wakeDelay = 0 →
      exec (.wakeEnd c) s =
        .next (opens s c { s.engine c with state := .ident, wakeTimer := none } .ident .ident none 3 [])) ∧
    ((s.engine c).step = .wake → s.setup.wakeDelay ≠ 0 →
      exec (.wakeEnd c) s = .next { s with
        engines := s.engines.set c { s.engine c with
          step := .wakeDelay, transaction := none, wakeTimer := some (s.now + s.setup.wakeDelay.toNat) }
        answers := [] }) ∧
    (∀ moment, (s.engine c).wakeTimer = some moment → (s.engine c).step = .wakeDelay →
      exec (.wakeDelayExpiry c) s = .next
        { opens s c { s.engine c with state := .ident, wakeTimer := none } .ident .ident none 3 [] with
          now := max s.now moment })

/-- R113: the end of an IDENT while the other channel still wakes or identifies: the engine takes the codes and goes IDLE, or
FAULT with its alarm; the bring-up goes on. -/
def Obligations.IdentEndJudgesTheIdentity : Prop :=
  ∀ (c : Channel) (maker typeCode capacity : Byte) (s : State), s.inReset = false → BringupHasNoImage s →
    s.link.state = .bringup → (s.engine c).state = .ident → (s.engine c).step = .ident →
    Identifying (s.engine (otherChannel c)) →
    ∃ t, exec (.identEnd c maker typeCode capacity) s = .next t ∧
      t.engine c = judged (s.engine c) maker typeCode capacity ∧ t.engine (otherChannel c) = s.engine (otherChannel c) ∧
      t.link = s.link ∧ EntriesKeptButOwners s t ∧
      (IdentityBad maker typeCode capacity → AlarmRaised s t (alarmOf c)) ∧
      (¬ IdentityBad maker typeCode capacity → t.alarms = s.alarms) ∧
      t.update = s.update ∧ t.chunks = s.chunks ∧ t.setup = s.setup ∧ t.now = s.now

/-- R114: the end of the last IDENT ends the bring-up by the table: the mode in effect, the image size, the link, PAIR_FAULT,
the engines out of the mode, LINK_READY, and no read left in HELD_LINK. -/
def Obligations.BringupEndsByTable : Prop :=
  ∀ (c : Channel) (maker typeCode capacity : Byte) (s : State), s.inReset = false → BringupHasNoImage s →
    s.link.state = .bringup → (s.engine c).state = .ident → (s.engine c).step = .ident →
    ¬ Identifying (s.engine (otherChannel c)) →
    let after := fun d => if d = c then judged (s.engine c) maker typeCode capacity else s.engine d
    let mode := modeChosen s.setup.configuredMode (decide ((after .a).state = .idle)) (decide ((after .b).state = .idle))
      (decide ((after .a).typeCode = (after .b).typeCode ∧ (after .a).capacityCode = (after .b).capacityCode))
    ∃ t, exec (.identEnd c maker typeCode capacity) s = .next t ∧
      t.link = { s.link with
        state := if mode = none then .down else .opened, mode := mode, imageSize := sizeOf mode (after .a) (after .b) } ∧
      (∀ d, (t.engine d).typeCode = (after d).typeCode ∧ (t.engine d).capacityCode = (after d).capacityCode ∧
        (t.engine d).faultReason = (after d).faultReason ∧
        ((after d).state = .fault → (t.engine d).state = .fault) ∧
        ((after d).state = .idle → ¬ inMode mode d → AtRest (t.engine d) .off) ∧
        ((after d).state = .idle → inMode mode d → (t.engine d).state = .idle ∨ (t.engine d).state = .active)) ∧
      (IdentityBad maker typeCode capacity → AlarmRaised s t (alarmOf c)) ∧
      (s.setup.configuredMode = .mirror → mode ≠ some .mirror → AlarmRaised s t .pairFault) ∧
      (s.setup.configuredMode ≠ .mirror ∨ mode = some .mirror →
        t.alarmActive .pairFault = s.alarmActive .pairFault) ∧
      (∀ q, ((s.port q).attached = true → (t.port q).pendingNotices.getLsbD 7 = true) ∧
        t.readIn q .heldLink = false) ∧
      HoldsKept s t ∧ DirectoryKept s t ∧ t.update = s.update ∧ t.chunks = s.chunks ∧ t.setup = s.setup ∧ t.now = s.now

/-! ### Fills and operations on the flash (spec 05, 06, 07) -/

/-- R93, R30, R31, R53: a completed fill. Its bytes go into the entry's slots where the entry is LIVE, and nowhere else;
every waiter is answered DATA; the LIVE entry, unless a read taken again got it, shows the valid flags, with its tag and its
holders, and so every other entry what it held; a HELD_VICTIM read of the fill's port whose chunk is then in a locked entry,
whatever the kind of the freed slot (log entry 9, the model's reading of R93 beside R57), is answered out of it. Where such
a slot or the entry is freed the HELD_VICTIM reads are taken again (R57); the cursors act (R75), and a preload whose entry
is wholly valid ends OK (R77). The record is gone: what is in service on the channel was dispatched in the event, and where
nothing else acts the queue is the other records' after the dispatch. A drain ends with its last record. -/
def Obligations.FillCompleteStoresAndAnswers : Prop :=
  ∀ (c : Channel) (data : List Byte) (s : State) (before after : List Record) (r : Record) (f : Fill),
    s.inReset = false → s.queue = before ++ r :: after → (∀ x ∈ before, x.state ≠ .inService c) →
    r.state = .inService c → r.work = .fill f → (s.engine c).state = .active → (s.engine c).step = .fillRead →
    data.length = f.count * 32 →
    ∃ t, exec (.fillComplete c data) s = .next t ∧
      ((s.entry f.entry).state = .live → ∀ address,
        t.chunks.read address =
          if f.entry.val * 4096 + f.first * 32 ≤ address ∧ address < f.entry.val * 4096 + f.first * 32 + data.length then
            data.getD (address - (f.entry.val * 4096 + f.first * 32)) 0
          else s.chunks.read address) ∧
      ((s.entry f.entry).state ≠ .live → t.chunks = s.chunks) ∧
      ((s.entry f.entry).state = .live →
        ((t.entry f.entry).state = .live ∧ (t.entry f.entry).tag = (s.entry f.entry).tag ∧
          (t.entry f.entry).holders = (s.entry f.entry).holders ∧
          ∀ chunk : Fin 128, (t.entry f.entry).valid.getLsbD chunk =
            ((s.entry f.entry).valid.getLsbD chunk ||
              decide (f.first ≤ chunk.val ∧ chunk.val < f.first + f.count))) ∨
        ((s.entry f.entry).locked = false ∧
          (∃ q, (s.port q).preload.running = true ∨ s.readIn q .heldVictim = true) ∧ GotByARead s t f.entry)) ∧
      (∀ e, e ≠ f.entry → ContentKept s t e) ∧ HoldsKept s t ∧ (LruHoldsEachEntryOnce s → LruLeft s t s.lru) ∧
      (∀ q, f.waiters.get q = true → ∀ x, (s.port q).read = some x →
        (t.port q).read = none ∧
          ⟨q, .data ((data.drop ((x.address.toNat % 4096 / 32 - f.first) * 32 + x.address.toNat % 32)).take
            (4 * x.beats))⟩ ∈ t.answers) ∧
      (∀ x, (s.port r.origin).read = some x → x.state = .heldVictim → f.waiters.get r.origin = false →
        (s.entry f.entry).state = .live → (s.entry f.entry).locked = true → ReachesLookup s x.address.toNat →
        s.findBlock (x.address.toNat / 4096) = some f.entry → f.first ≤ x.address.toNat % 4096 / 32 →
        x.address.toNat % 4096 / 32 < f.first + f.count →
          (t.port r.origin).read = none ∧
            ⟨r.origin, .data ((List.range (4 * x.beats)).map
              (fun i => t.chunks.read (f.entry.val * 4096 + x.address.toNat % 4096 + i)))⟩ ∈ t.answers) ∧
      (s.readIn r.origin .heldVictim = true ∧ f.waiters.get r.origin = false → VictimsRetaken s t) ∧
      ((s.entry f.entry).state = .draining ∨
          ((s.entry f.entry).state = .live ∧ (s.entry f.entry).locked = false ∧ (s.entry f.entry).owner = none) →
        (∀ x ∈ before ++ after, x.state ≠ .inService c → x.names f.entry = false) → VictimsRetaken s t) ∧
      CursorsServed s t ∧
      (∀ q, (s.entry f.entry).state = .live → (s.entry f.entry).owner = some q → (s.port q).preload.entry = f.entry →
        (∀ chunk : Fin 128, (s.entry f.entry).valid.getLsbD chunk = true ∨
          (f.first ≤ chunk.val ∧ chunk.val < f.first + f.count)) → PreloadEnded s t q .ok) ∧
      t.queue.countP (fun x => x.state == .inService c) = (if (t.engine c).state = .active then 1 else 0) ∧
      ((∀ q, (s.port q).preload.running = false ∧ s.readIn q .heldVictim = false) →
        t.queue = (State.dispatch { s with
          queue := (before ++ after).filter (fun x => !(x.state == .inService c))
          engines := s.engines.set c { s.engine c with
            state := .idle, step := .rest, transaction := none, wakeTimer := none, pollTimer := none
            operationTimer := none } }).queue) ∧
      ((s.entry f.entry).state = .draining →
        ((∃ x ∈ before ++ after, x.state ≠ .inService c ∧ x.names f.entry = true) → (t.entry f.entry).state = .draining) ∧
        ((∀ x ∈ before ++ after, x.state ≠ .inService c → x.names f.entry = false) →
          (t.entry f.entry).state = .empty ∨ GivenToARead s t f.entry)) ∧
      (s.queue = [r] → (∀ q, (s.port q).preload.running = false ∧ s.readIn q .heldVictim = false) →
        t.queue = [] ∧ AtRest (t.engine c) (if s.link.state = .stopping ∧ (s.engine (otherChannel c)).state ≠ .active
          then .off else .idle)) ∧
      t.update = s.update ∧ t.setup = s.setup ∧ t.now = s.now ∧ t.link = { s.link with state := t.link.state }

/-- R106, R107, R109: the steps of a program phase and of an erase phase up to the last. -/
def Obligations.ProgramAndErasePhaseSteps : Prop :=
  ∀ (c : Channel) (op : UpdateOp) (s : State), s.inReset = false → s.update.op = some op → (s.engine c).state = .active →
    ((s.engine c).step = .enableWrite → op.kind = .program →
      exec (.enableWriteEnd c) s = .next (opens s c (s.engine c) .programPage .programPage
        (some (flashOf s op.target c)) 0
        ((List.range 256).map (fun i => if s.update.written.getLsbD i then s.update.stagingData.read i else 0xFF)))) ∧
    ((s.engine c).step = .enableWrite → op.kind = .erase →
      exec (.enableWriteEnd c) s = .next (opens s c (s.engine c) .eraseBlock .eraseBlock
        (some (flashOf s (op.target * 4096) c)) 0 [])) ∧
    ((s.engine c).step = .programPage →
      exec (.programPageEnd c) s = .next { s with
        engines := s.engines.set c { s.engine c with
          step := .pollWait, transaction := none
          operationTimer := some (s.now + s.setup.programTimeout.toNat * 1000)
          pollTimer := some (s.now + s.setup.pollInterval.toNat) }
        answers := [] }) ∧
    ((s.engine c).step = .eraseBlock →
      exec (.eraseBlockEnd c) s = .next { s with
        engines := s.engines.set c { s.engine c with
          step := .pollWait, transaction := none
          operationTimer := some (s.now + s.setup.eraseTimeout.toNat * 10000)
          pollTimer := some (s.now + s.setup.pollInterval.toNat) }
        answers := [] }) ∧
    (∀ moment, (s.engine c).pollTimer = some moment → (s.engine c).step = .pollWait →
      exec (.pollTimerExpiry c) s = .next
        { opens s c { s.engine c with pollTimer := none } .readStatus .readStatus none 1 [] with now := max s.now moment }) ∧
    (∀ status : Byte, (s.engine c).step = .readStatus → status.getLsbD s.setup.busyPosition.toNat = true →
      exec (.readStatusEnd c status) s = .next { s with
        engines := s.engines.set c { s.engine c with
          step := .pollWait, transaction := none, pollTimer := some (s.now + s.setup.pollInterval.toNat) }
        answers := [] }) ∧
    (∀ status : Byte, (s.engine c).step = .readStatus → status.getLsbD s.setup.busyPosition.toNat = false →
      op.kind = .program →
      exec (.readStatusEnd c status) s = .next (opens s c { s.engine c with pollTimer := none, operationTimer := none }
        (.verify (status.getLsbD s.setup.failPosition.toNat)) .read (some (flashOf s op.target c)) 256 []))

/-- R136, R137, R142, R23, R32, R33: the end of the one phase of an operation ends the operation; the entry of the target's
block, unless a read taken again got it, then shows the target's content, and the chunk store is as it was outside it. An
erase that failed or timed out moves its entry to the LRU end, and no other outcome moves one. The cursors have acted (R75).
-/
def Obligations.SinglePhaseEndsTheOperation : Prop :=
  ∀ (c d : Channel) (op : UpdateOp) (i : Instr) (outcome : PhaseOutcome) (data : List Byte) (s : State),
    PhaseEnds s c op i outcome data → op.phases = .one d →
    ∃ t, exec i s = .next t ∧
      OperationEnded s t op (overallOf outcome) (outcomeOn c .a op.outcomeA outcome) (outcomeOn c .b op.outcomeB outcome) ∧
      (∀ e, s.findBlock (targetBlock op) = some e →
        ((t.entry e).state = .live ∧ (t.entry e).tag = (s.entry e).tag ∧ (t.entry e).holders = (s.entry e).holders ∧
          FlagsKeptOutside s t e op ∧
          (outcome = .timeout ∨ (op.kind = .erase ∧ outcome ≠ .ok) → TargetInvalid t e op) ∧
          (outcome ≠ .timeout → op.kind = .program ∨ outcome = .ok → TargetStored t e op data)) ∨
        ((s.entry e).locked = false ∧ GotByARead s t e)) ∧
      (∀ e, s.findBlock (targetBlock op) ≠ some e → ContentKept s t e) ∧ HoldsKept s t ∧
      (outcome = .timeout ∨ (op.kind = .erase ∧ outcome ≠ .ok) → t.chunks = s.chunks) ∧
      StoreKeptOutside s t op data ∧
      (LruHoldsEachEntryOnce s → LruLeft s t
        (if op.kind = .erase ∧ outcome ≠ .ok then
          movedToEnd s.lru (fun e => s.findBlock (targetBlock op) == some e)
        else s.lru)) ∧
      CursorsServed s t ∧ t.setup = s.setup ∧ t.link.mode = s.link.mode ∧ t.link.imageSize = s.link.imageSize

/-- R138 to R140, R142, R94: the ends of the phases in MIRROR. Phase A ended OK goes on with phase B, the target staying:
the UPDATE_OP returns to PENDING with target B, in its place in the queue and with its fields, or is in service on B
already. Every other end ends the operation: a failure degrades MIRROR, and the target keeps its content (phase A) or takes
that of phase A (phase B), unless a read taken again got its entry, the chunk store as it was outside it; the HELD_VICTIM
reads are taken again (R57). That the alarms stay is said of a queued operation (R82): with none a stop may complete. -/
def Obligations.MirrorPhasesByTheirOutcomes : Prop :=
  ∀ (op : UpdateOp) (i : Instr) (outcome : PhaseOutcome) (data : List Byte) (s : State), op.phases = .aThenB →
    (PhaseEnds s .a op i outcome data → op.current = .first → outcome = .ok →
      ∃ t, exec i s = .next t ∧
        t.update = { s.update with op := some { op with
          current := .second, outcomeA := .ok, verifyA := if op.kind = .program then some data else none } } ∧
        (∀ r ∈ t.queue, r.isUpdateOp = true → r.target = .only .b) ∧
        (∀ r ∈ s.queue, r.isUpdateOp = true →
          { r with target := .only .b, state := .pending } ∈ t.queue ∨
            ({ r with target := .only .b, state := .inService .b, work := .updateOp true } ∈ t.queue ∧
              (t.engine .b).state = .active)) ∧
        ((∀ q, CursorWaits s q) →
          t.queue = (State.dispatch { s with
            queue := s.queue.map (fun r => if r.isUpdateOp then { r with target := .only .b, state := .pending } else r)
            update := t.update
            engines := s.engines.set .a { s.engine .a with
              state := .idle, step := .rest, transaction := none, wakeTimer := none, pollTimer := none
              operationTimer := none } }).queue) ∧
        CursorsServed s t ∧ HoldsKept s t ∧ DirectoryKept s t ∧
        ((∃ r ∈ s.queue, r.isUpdateOp = true) →
          ((t.engine .a).state = .idle ∨ (t.engine .a).state = .active) ∧ t.alarms = s.alarms) ∧
        t.chunks = s.chunks ∧ t.setup = s.setup ∧ t.now = s.now ∧ t.link.mode = s.link.mode) ∧
    (s.link.mode = some .mirror → PhaseEnds s .a op i outcome data → op.current = .first → outcome ≠ .ok →
      ∃ t, exec i s = .next t ∧ OperationEnded s t op (overallOf outcome) outcome .skipped ∧ Degraded s t .a outcome ∧
        VictimsRetaken s t ∧ CursorsServed s t ∧ HoldsKept s t ∧ DirectoryKept s t ∧ t.chunks = s.chunks ∧
        ∀ e, s.findBlock (targetBlock op) = some e → (s.entry e).locked = true →
          (t.entry e).valid = (s.entry e).valid ∧ (t.entry e).holders = (s.entry e).holders) ∧
    (s.link.mode = some .mirror → PhaseEnds s .b op i outcome data → op.current = .second →
      ∃ t, exec i s = .next t ∧ OperationEnded s t op (overallOf outcome) op.outcomeA outcome ∧
        (outcome = .ok → t.link.mode = some .mirror) ∧
        (outcome ≠ .ok → Degraded s t .b outcome ∧ VictimsRetaken s t) ∧ CursorsServed s t ∧
        StoreKeptOutside s t op (op.verifyA.getD []) ∧
        HoldsKept s t ∧ (LruHoldsEachEntryOnce s → LruLeft s t s.lru) ∧
        (∀ e, s.findBlock (targetBlock op) ≠ some e → ContentKept s t e) ∧
        ∀ e, s.findBlock (targetBlock op) = some e →
          ((t.entry e).state = .live ∧ (t.entry e).tag = (s.entry e).tag ∧ (t.entry e).holders = (s.entry e).holders ∧
            FlagsKeptOutside s t e op ∧ TargetStored t e op (op.verifyA.getD [])) ∨
          ((s.entry e).locked = false ∧ GotByARead s t e))

/-- R110, R115, R116, R96, R97, R54, R80: an operation timer's expiry. The engine is in FAULT with its alarm, and the link
goes on or DOWN by the mode in effect before. DOWN, no record stays pending, no preload runs and no read is HELD_VICTIM; in
SPLIT with the other channel serving that goes for the faulted channel's records and for the preloads whose block has no
usable channel, and the HELD_VICTIM reads are taken again (R57). The waiters of the records so removed are answered ERROR
LINK_DOWN, which R40 says of reads that are WAITING_FILL; a preload so ended, but by a fence (R158), has ended LINK. In
SINGLE and SPLIT an operation has one phase (R132), and in SPLIT the capacity of channel A is one that R113 judges good. -/
def Obligations.OperationTimeoutFaultsTheChannel : Prop :=
  ∀ (c : Channel) (moment : Nat) (s : State), s.inReset = false → (s.engine c).state = .active →
    (s.engine c).operationTimer = some moment → s.link.state = .opened →
    ∃ t, exec (.operationTimerExpiry c) s = .next t ∧ AtRest (t.engine c) .fault ∧ (t.engine c).faultReason = .timeout ∧
      (t.engine c).typeCode = (s.engine c).typeCode ∧ (t.engine c).capacityCode = (s.engine c).capacityCode ∧
      AlarmRaised s t (alarmOf c) ∧ t.now = max s.now moment ∧ t.link.imageSize = s.link.imageSize ∧
      (s.link.mode = some .singleA ∨ s.link.mode = some .singleB ∨
          (s.link.mode = some .split ∧ (s.engine (otherChannel c)).state ≠ .idle ∧
            (s.engine (otherChannel c)).state ≠ .active) →
        t.link.state = .down ∧ (∀ r ∈ t.queue, r.isPending = false) ∧
          ∀ q, (t.port q).preload.running = false ∧ t.readIn q .heldVictim = false) ∧
      (s.link.mode = some .split → (s.engine (otherChannel c)).state = .idle ∨ (s.engine (otherChannel c)).state = .active →
        (∀ op, s.update.op = some op → op.phases ≠ .aThenB) →
        t.link.state = .opened ∧
          (IdentitiesJudged s → ∀ r ∈ t.queue, r.isPending = true → r.target ≠ .only c) ∧
          (∀ q, (t.port q).preload.running = true → t.hasUsableChannel ((t.port q).preload.block * 4096) = true) ∧
          VictimsRetaken s t) ∧
      (s.link.mode ≠ some .mirror → (∀ op, s.update.op = some op → op.phases ≠ .aThenB) → t.link.mode = s.link.mode) ∧
      (s.link.mode.isSome → s.link.mode ≠ some .mirror → (∀ op, s.update.op = some op → op.phases ≠ .aThenB) →
        PreloadsStand s →
        (∀ r ∈ s.queue, r.isPending = true → t.link.state = .down ∨ r.target = .only c →
          (∀ q, r.waiters.get q = true → s.readIn q .waitingFill = true) → AnsweredLinkDown s t r) ∧
        (∀ q, (t.port q).fenced = (s.port q).fenced →
          t.link.state = .down ∨ t.hasUsableChannel ((s.port q).preload.block * 4096) = false → PreloadEnded s t q .link)) ∧
      CursorsServed s t ∧ HoldsKept s t ∧
      (∀ e, (∀ op, s.update.op = some op → s.findBlock (targetBlock op) ≠ some e) → ContentKept s t e) ∧
      (s.link.mode = some .mirror → t.link.state = .opened)

/-- An event of a timer or a transaction that is not under way, or that brings another number of bytes than the READ asked
for, changes nothing (log entry 5). -/
def Obligations.StrayFlashEventsChangeNothing : Prop :=
  ∀ (c : Channel) (s : State),
    (¬ ((s.engine c).state = .waking ∧ (s.engine c).step = .wake) → exec (.wakeEnd c) s = .next { s with answers := [] }) ∧
    ((s.engine c).state ≠ .waking ∨ (s.engine c).step ≠ .wakeDelay ∨ (s.engine c).wakeTimer = none →
      exec (.wakeDelayExpiry c) s = .next { s with answers := [] }) ∧
    (∀ maker typeCode capacity, ¬ ((s.engine c).state = .ident ∧ (s.engine c).step = .ident) →
      exec (.identEnd c maker typeCode capacity) s = .next { s with answers := [] }) ∧
    (∀ data, ¬ ((s.engine c).state = .active ∧ (s.engine c).step = .fillRead) ∨
        (∀ r ∈ s.queue, r.state = .inService c → ∀ f, r.fill = some f → data.length ≠ f.count * 32) →
      exec (.fillComplete c data) s = .next { s with answers := [] }) ∧
    (¬ ((s.engine c).state = .active ∧ (s.engine c).step = .enableWrite) →
      exec (.enableWriteEnd c) s = .next { s with answers := [] }) ∧
    (¬ ((s.engine c).state = .active ∧ (s.engine c).step = .programPage) →
      exec (.programPageEnd c) s = .next { s with answers := [] }) ∧
    (¬ ((s.engine c).state = .active ∧ (s.engine c).step = .eraseBlock) →
      exec (.eraseBlockEnd c) s = .next { s with answers := [] }) ∧
    ((s.engine c).state ≠ .active ∨ (s.engine c).step ≠ .pollWait ∨ (s.engine c).pollTimer = none →
      exec (.pollTimerExpiry c) s = .next { s with answers := [] }) ∧
    (∀ status, ¬ ((s.engine c).state = .active ∧ (s.engine c).step = .readStatus) →
      exec (.readStatusEnd c status) s = .next { s with answers := [] }) ∧
    (∀ data, (s.engine c).state ≠ .active ∨ (∀ failFlag, (s.engine c).step ≠ .verify failFlag) ∨ data.length ≠ 256 →
      exec (.verifyReadEnd c data) s = .next { s with answers := [] }) ∧
    ((s.engine c).state ≠ .active ∨ (s.engine c).operationTimer = none →
      exec (.operationTimerExpiry c) s = .next { s with answers := [] }) ∧
    (∀ p, (∀ r, (s.port p).read = some r → r.deadline = none) →
      exec (.readDeadline p) s = .next { s with answers := [] }) ∧
    (s.update.grantTimer = none → exec .grantTimerExpiry s = .next { s with answers := [] })

/-! ### The directory, the arbiter and the notices as they stand -/

/-- R20, R25, R7, R8, R12: the lookup finds an entry exactly when a LIVE entry carries the block, and the victim is the
eligible entry nearest the LRU end; the channels of an image address by the mode in effect, and when it has a usable one. -/
def Obligations.LookupVictimAndChannels : Prop :=
  ∀ (s : State) (e : Fin 16) (block x : Nat),
    (TagsUnique s → (s.findBlock block = some e ↔ (s.entry e).state = .live ∧ (s.entry e).tag = some block)) ∧
    (LruHoldsEachEntryOnce s →
      (s.victim = some e ↔
        s.eligible e = true ∧ ∀ d, s.eligible d = true → d ≠ e → s.lru.idxOf d < s.lru.idxOf e)) ∧
    (∀ c, s.channelOf x c = true ↔
      inMode s.link.mode c ∧ (s.link.mode = some .split → (c = .a ↔ x < capacityOf (s.engine .a)))) ∧
    (s.hasUsableChannel x = true ↔
      x < s.link.imageSize ∧
        ∃ c, s.channelOf x c = true ∧ (s.engine c).state ≠ .off ∧ (s.engine c).state ≠ .fault) ∧
    (s.eligible e = true ↔
      (s.entry e).state = .empty ∨
        ((s.entry e).state = .live ∧ (s.entry e).locked = false ∧ (s.entry e).owner = none ∧
          ∀ r ∈ s.queue, r.names e = false))

/-- R87 to R91, R105, R106, R109: the keys of the rank, the conditions of eligibility with the quiescence of an UPDATE_OP, and
the dispatch: it leaves no record eligible for an IDLE channel, and the first record it serves is the highest-ranked of the
eligible ones, on A where A may take it; of records equal in class, level and port the one that arrived first. The engine it
serves is ACTIVE and opens the record's transaction: the READ of a fill, or the ENABLE_WRITE of an UPDATE_OP. Nothing else
changes. -/
def Obligations.DispatchServesTheHighestRanked : Prop :=
  ∀ s : State,
    (∀ r other : Record, r.ranksAbove other = true ↔
      (r.cls = .demand ∧ other.cls = .preload) ∨
        (r.cls = other.cls ∧
          (other.level < r.level ∨ (r.level = other.level ∧ portNumber r.origin < portNumber other.origin)))) ∧
    (∀ c, ∀ r : Record, s.eligibleFor c r = true ↔
      r.state = .pending ∧ inMode s.link.mode c ∧ (s.engine c).state = .idle ∧
        (r.target = .either ∨ r.target = .only c) ∧
        (r.isUpdateOp = true → ∀ x ∈ s.queue, x.state ≠ .pending → ∀ f, x.fill = some f → ∀ i < f.count,
          s.inTarget f.block (f.first + i) = false)) ∧
    (∀ block chunk, s.inTarget block chunk = true ↔
      s.update.op.isSome ∧ ∀ op, s.update.op = some op →
        match op.kind with
        | .program => block = op.target / 4096 ∧ chunk / 8 = op.target % 4096 / 256
        | .erase => block = op.target) ∧
    NothingLeftToDispatch s.dispatch ∧
    ((∃ c, ∃ r ∈ s.queue, s.eligibleFor c r = true) →
      ∃ before r after c, s.queue = before ++ r :: after ∧ s.eligibleFor c r = true ∧
        (s.eligibleFor .a r = true → c = .a) ∧
        (∀ x ∈ before, ∀ d, s.eligibleFor d x = true → r.ranksAbove x = true) ∧
        (∀ x ∈ after, ∀ d, s.eligibleFor d x = true → x.ranksAbove r = false) ∧
        s.dispatchOne = { s with
          queue := before ++ { r with
            state := .inService c
            work := match r.work with | .fill f => .fill f | .updateOp _ => .updateOp true } :: after
          engines := s.engines.set c (engineServing s c r) }) ∧
    ((∀ c, ∀ r ∈ s.queue, s.eligibleFor c r = false) → s.dispatchOne = s) ∧ s.dispatch = s.dispatchOne.dispatchOne

/-- R163, R164: a raise, the NOTICE line, the vector. -/
def Obligations.NoticesAndTheirVector : Prop :=
  ∀ (p : Port) (n : Notice) (s : State),
    ((s.port p).attached = true → (s.port p).pendingNotices.getLsbD n.number = false →
      s.raise p n = { s with ports := s.ports.set p { s.port p with
        pendingNotices := (s.port p).pendingNotices ||| BitVec.twoPow 8 n.number } }) ∧
    ((s.port p).attached = true → (s.port p).pendingNotices.getLsbD n.number = true →
      s.raise p n = { s with ports := s.ports.set p { s.port p with
        repeats := (s.port p).repeats ||| BitVec.twoPow 8 n.number } }) ∧
    ((s.port p).attached = false → s.raise p n = s) ∧
    (s.noticeLine p = true ↔
      s.inReset = false ∧ (s.port p).attached = true ∧
        ∃ k < 8, (s.port p).pendingNotices.getLsbD k = true ∧ (s.port p).enables.getLsbD k = true) ∧
    (∀ k < 8, (s.port p).pendingNotices.getLsbD k = true → (s.port p).enables.getLsbD k = true →
      (∀ j < k, (s.port p).pendingNotices.getLsbD j = false ∨ (s.port p).enables.getLsbD j = false) →
      (s.port p).noticeVector.toNat = ((s.port p).vectorBase.toNat + k * 2 ^ (s.port p).vectorShift.toNat) % 65536) ∧
    ((∀ k < 8, (s.port p).pendingNotices.getLsbD k = false ∨ (s.port p).enables.getLsbD k = false) →
      (s.port p).noticeVector = (s.port p).vectorBase)

/-! ### What each kind of state is changed by -/

/-- R18, R123, R151, R155, R5: which commands can change the chunk store, the staging data, the Shared Setup, the time base
and the straps: each other command leaves it as it is, and every command leaves the commands that wait. A read that stays
outstanding keeps its address, length and deadline (R40, R55, R59), and none waits for a fill that no record of the queue
brings it (R40). That an expiry moves the time base is the model's choice (log entry 4), and so is that no command but the
end of reset, a TB_DIV write included, changes the count of REFCLK periods (log entry 3). -/
def Obligations.EachKindOfStateHasItsCommands : Prop :=
  ∀ (i : Instr) (s t : State), exec i s = .next t → t.pending = s.pending ∧
    (∀ q x, (s.port q).read = some x → ∀ y, (t.port q).read = some y → y = { x with state := y.state }) ∧
    (AloneInService s i → NoReadStranded s → NoReadStranded t) ∧
    ((∀ straps, i ≠ .hubResetEnd straps) →
    ((∀ c data, i ≠ .fillComplete c data ∧ i ≠ .verifyReadEnd c data) → (∀ c status, i ≠ .readStatusEnd c status) →
      (∀ c, i ≠ .operationTimerExpiry c) → t.chunks = s.chunks) ∧
    ((∀ p x accesses, i ≠ .imageWrite p x accesses) → t.update.stagingData = s.update.stagingData) ∧
    ((∀ p index w, i ≠ .sharedSetupWrite p index w) → t.setup = s.setup) ∧
    ((∀ p, i ≠ .readDeadline p) → i ≠ .grantTimerExpiry →
      (∀ c, i ≠ .wakeDelayExpiry c ∧ i ≠ .pollTimerExpiry c ∧ i ≠ .operationTimerExpiry c) → t.now = s.now) ∧
    t.link.strap = s.link.strap ∧ t.refclkCount = s.refclkCount ∧
    (i ≠ .hubResetAssert → t.inReset = s.inReset))

/-! ### The laws that every step keeps -/

/-- The chunk store and the staging data keep their canonical form. -/
def Obligations.BuffersStayCanonical : Prop :=
  ∀ s t : State, BuffersCanonical s → step s = .next t → BuffersCanonical t

/-- R20, R21, R64: the LRU order, the one tag of a block and the global limit; R71, R75, R79: the running preloads and their
pending fills. -/
def Obligations.DirectoryLawsKept : Prop :=
  ∀ s t : State, step s = .next t →
    (LruHoldsEachEntryOnce s → LruHoldsEachEntryOnce t) ∧ (TagsUnique s → TagsUnique t) ∧
      (LocksWithinLimit s → LocksWithinLimit t) ∧ (PreloadsStand s → PreloadsStand t)

/-- R82, R84: at most one demand fill and one preload fill for each port, and one UPDATE_OP, which is there only while the
operation is. -/
def Obligations.SharesOfTheQueueKept : Prop :=
  ∀ s t : State, step s = .next t → SharesKept s → (s.update.op = none → ∀ r ∈ s.queue, r.isUpdateOp = false) →
    SharesKept t ∧ (t.update.op = none → ∀ r ∈ t.queue, r.isUpdateOp = false)

/-- R123, R126, R128: the grant, what needs it, and when its timer runs. -/
def Obligations.GrantLawsKept : Prop :=
  ∀ s t : State, step s = .next t → GrantLaw s → OrphanedOnlyDuringOperation s →
    GrantLaw t ∧ OrphanedOnlyDuringOperation t

/-- R147, R148, R151, R112: every field of the Shared Setup stays in range, every port stays attached as its condition says,
and a bring-up has no image and no engine at work; R113, R114: what the judged identities leave the engines. -/
def Obligations.SetupAttachmentAndBringupKept : Prop :=
  ∀ s t : State, step s = .next t →
    (SetupInRange s → SetupInRange t) ∧ (AttachedAsConditioned s → AttachedAsConditioned t) ∧
      (BringupHasNoImage s → BringupHasNoImage t) ∧
      (BringupHasNoImage s → IdentitiesJudged s → IdentitiesJudged t)

/-- The laws of the last statements hold in State.reset, which is what HUB_RESET_END with straps 0 leaves of itself (log entry
1). -/
def Obligations.LawsHoldAtReset : Prop :=
  BuffersCanonical State.reset ∧ LruHoldsEachEntryOnce State.reset ∧ TagsUnique State.reset ∧
    LocksWithinLimit State.reset ∧ SharesKept State.reset ∧ GrantLaw State.reset ∧
    OrphanedOnlyDuringOperation State.reset ∧ SetupInRange State.reset ∧ AttachedAsConditioned State.reset ∧
    BringupHasNoImage State.reset ∧ PreloadsStand State.reset ∧ IdentitiesJudged State.reset ∧
    exec (.hubResetEnd 0) State.reset = .next State.reset
end

