-- ==== Sys2Proof/Laws/State.lean ====
section
/-! SUPPORT. One lemma for each field under each named update of the state, so that no proof unfolds a record update. -/

namespace Sys2Proof.Machine

/-! ### Indexed families -/

theorem PerPort.get_set {α : Type} (x : PerPort α) (p q : Port) (v : α) :
    (x.set p v).get q = if q = p then v else x.get q := by cases p <;> cases q <;> rfl

@[simp] theorem PerPort.get_set_same {α : Type} (x : PerPort α) (p : Port) (v : α) : (x.set p v).get p = v := by
  cases p <;> rfl

theorem PerPort.get_set_other {α : Type} (x : PerPort α) {p q : Port} (v : α) (h : q ≠ p) :
    (x.set p v).get q = x.get q := by rw [PerPort.get_set, if_neg h]

@[simp] theorem PerPort.set_get {α : Type} (x : PerPort α) (p : Port) : x.set p (x.get p) = x := by cases p <;> rfl

@[simp] theorem PerPort.set_set {α : Type} (x : PerPort α) (p : Port) (v w : α) : (x.set p v).set p w = x.set p w := by
  cases p <;> rfl

@[simp] theorem PerPort.get_all {α : Type} (v : α) (p : Port) : (PerPort.all v).get p = v := by cases p <;> rfl

theorem PerPort.ext_get {α : Type} {x y : PerPort α} (h : ∀ p, x.get p = y.get p) : x = y := by
  obtain ⟨a, b, c, d⟩ := x
  obtain ⟨a', b', c', d'⟩ := y
  have h0 := h .cp0
  have h1 := h .cp1
  have h2 := h .cp2
  have h3 := h .cp3
  simp only [PerPort.get] at h0 h1 h2 h3
  subst h0 h1 h2 h3
  rfl

theorem PerChannel.get_set {α : Type} (x : PerChannel α) (c d : Channel) (v : α) :
    (x.set c v).get d = if d = c then v else x.get d := by cases c <;> cases d <;> rfl

@[simp] theorem PerChannel.get_set_same {α : Type} (x : PerChannel α) (c : Channel) (v : α) : (x.set c v).get c = v := by
  cases c <;> rfl

theorem PerChannel.get_set_other {α : Type} (x : PerChannel α) {c d : Channel} (v : α) (h : d ≠ c) :
    (x.set c v).get d = x.get d := by rw [PerChannel.get_set, if_neg h]

@[simp] theorem PerChannel.set_set {α : Type} (x : PerChannel α) (c : Channel) (v w : α) :
    (x.set c v).set c w = x.set c w := by cases c <;> rfl

@[simp] theorem PortSet.get_where (test : Port → Bool) (p : Port) : (PortSet.where test).get p = test p := by
  cases p <;> rfl

@[simp] theorem PortSet.get_empty (p : Port) : PortSet.empty.get p = false := by cases p <;> rfl

@[simp] theorem PortSet.get_union (x y : PortSet) (p : Port) : (x.union y).get p = (x.get p || y.get p) := by
  cases p <;> rfl

theorem mem_allPorts (p : Port) : p ∈ allPorts := by cases p <;> decide

theorem mem_allEntries (e : Fin 16) : e ∈ allEntries := by revert e; decide

/-! ### setPort -/

@[simp] theorem setPort_inReset (s : State) (p : Port) (v : PortState) : (s.setPort p v).inReset = s.inReset := rfl
@[simp] theorem setPort_ports (s : State) (p : Port) (v : PortState) : (s.setPort p v).ports = s.ports.set p v := rfl
@[simp] theorem setPort_entries (s : State) (p : Port) (v : PortState) : (s.setPort p v).entries = s.entries := rfl
@[simp] theorem setPort_lru (s : State) (p : Port) (v : PortState) : (s.setPort p v).lru = s.lru := rfl
@[simp] theorem setPort_chunks (s : State) (p : Port) (v : PortState) : (s.setPort p v).chunks = s.chunks := rfl
@[simp] theorem setPort_queue (s : State) (p : Port) (v : PortState) : (s.setPort p v).queue = s.queue := rfl
@[simp] theorem setPort_engines (s : State) (p : Port) (v : PortState) : (s.setPort p v).engines = s.engines := rfl
@[simp] theorem setPort_link (s : State) (p : Port) (v : PortState) : (s.setPort p v).link = s.link := rfl
@[simp] theorem setPort_update (s : State) (p : Port) (v : PortState) : (s.setPort p v).update = s.update := rfl
@[simp] theorem setPort_setup (s : State) (p : Port) (v : PortState) : (s.setPort p v).setup = s.setup := rfl
@[simp] theorem setPort_alarms (s : State) (p : Port) (v : PortState) : (s.setPort p v).alarms = s.alarms := rfl
@[simp] theorem setPort_now (s : State) (p : Port) (v : PortState) : (s.setPort p v).now = s.now := rfl
@[simp] theorem setPort_refclkCount (s : State) (p : Port) (v : PortState) :
    (s.setPort p v).refclkCount = s.refclkCount := rfl
@[simp] theorem setPort_answers (s : State) (p : Port) (v : PortState) : (s.setPort p v).answers = s.answers := rfl
@[simp] theorem setPort_pending (s : State) (p : Port) (v : PortState) : (s.setPort p v).pending = s.pending := rfl

/-! ### setEngine -/

@[simp] theorem setEngine_inReset (s : State) (c : Channel) (v : Engine) :
    (s.setEngine c v).inReset = s.inReset := rfl
@[simp] theorem setEngine_ports (s : State) (c : Channel) (v : Engine) : (s.setEngine c v).ports = s.ports := rfl
@[simp] theorem setEngine_entries (s : State) (c : Channel) (v : Engine) :
    (s.setEngine c v).entries = s.entries := rfl
@[simp] theorem setEngine_lru (s : State) (c : Channel) (v : Engine) : (s.setEngine c v).lru = s.lru := rfl
@[simp] theorem setEngine_chunks (s : State) (c : Channel) (v : Engine) : (s.setEngine c v).chunks = s.chunks := rfl
@[simp] theorem setEngine_queue (s : State) (c : Channel) (v : Engine) : (s.setEngine c v).queue = s.queue := rfl
@[simp] theorem setEngine_engines (s : State) (c : Channel) (v : Engine) :
    (s.setEngine c v).engines = s.engines.set c v := rfl
@[simp] theorem setEngine_link (s : State) (c : Channel) (v : Engine) : (s.setEngine c v).link = s.link := rfl
@[simp] theorem setEngine_update (s : State) (c : Channel) (v : Engine) : (s.setEngine c v).update = s.update := rfl
@[simp] theorem setEngine_setup (s : State) (c : Channel) (v : Engine) : (s.setEngine c v).setup = s.setup := rfl
@[simp] theorem setEngine_alarms (s : State) (c : Channel) (v : Engine) : (s.setEngine c v).alarms = s.alarms := rfl
@[simp] theorem setEngine_now (s : State) (c : Channel) (v : Engine) : (s.setEngine c v).now = s.now := rfl
@[simp] theorem setEngine_refclkCount (s : State) (c : Channel) (v : Engine) :
    (s.setEngine c v).refclkCount = s.refclkCount := rfl
@[simp] theorem setEngine_answers (s : State) (c : Channel) (v : Engine) :
    (s.setEngine c v).answers = s.answers := rfl
@[simp] theorem setEngine_pending (s : State) (c : Channel) (v : Engine) :
    (s.setEngine c v).pending = s.pending := rfl

/-! ### setEntry -/

@[simp] theorem setEntry_inReset (s : State) (e : Fin 16) (v : Entry) : (s.setEntry e v).inReset = s.inReset := rfl
@[simp] theorem setEntry_ports (s : State) (e : Fin 16) (v : Entry) : (s.setEntry e v).ports = s.ports := rfl
@[simp] theorem setEntry_entries (s : State) (e : Fin 16) (v : Entry) :
    (s.setEntry e v).entries = s.entries.set e v := rfl
@[simp] theorem setEntry_lru (s : State) (e : Fin 16) (v : Entry) : (s.setEntry e v).lru = s.lru := rfl
@[simp] theorem setEntry_chunks (s : State) (e : Fin 16) (v : Entry) : (s.setEntry e v).chunks = s.chunks := rfl
@[simp] theorem setEntry_queue (s : State) (e : Fin 16) (v : Entry) : (s.setEntry e v).queue = s.queue := rfl
@[simp] theorem setEntry_engines (s : State) (e : Fin 16) (v : Entry) : (s.setEntry e v).engines = s.engines := rfl
@[simp] theorem setEntry_link (s : State) (e : Fin 16) (v : Entry) : (s.setEntry e v).link = s.link := rfl
@[simp] theorem setEntry_update (s : State) (e : Fin 16) (v : Entry) : (s.setEntry e v).update = s.update := rfl
@[simp] theorem setEntry_setup (s : State) (e : Fin 16) (v : Entry) : (s.setEntry e v).setup = s.setup := rfl
@[simp] theorem setEntry_alarms (s : State) (e : Fin 16) (v : Entry) : (s.setEntry e v).alarms = s.alarms := rfl
@[simp] theorem setEntry_now (s : State) (e : Fin 16) (v : Entry) : (s.setEntry e v).now = s.now := rfl
@[simp] theorem setEntry_refclkCount (s : State) (e : Fin 16) (v : Entry) :
    (s.setEntry e v).refclkCount = s.refclkCount := rfl
@[simp] theorem setEntry_answers (s : State) (e : Fin 16) (v : Entry) : (s.setEntry e v).answers = s.answers := rfl
@[simp] theorem setEntry_pending (s : State) (e : Fin 16) (v : Entry) : (s.setEntry e v).pending = s.pending := rfl

/-! ### quiet -/

@[simp] theorem quiet_inReset (s : State) : (s.quiet).inReset = s.inReset := rfl
@[simp] theorem quiet_ports (s : State) : (s.quiet).ports = s.ports := rfl
@[simp] theorem quiet_entries (s : State) : (s.quiet).entries = s.entries := rfl
@[simp] theorem quiet_lru (s : State) : (s.quiet).lru = s.lru := rfl
@[simp] theorem quiet_chunks (s : State) : (s.quiet).chunks = s.chunks := rfl
@[simp] theorem quiet_queue (s : State) : (s.quiet).queue = s.queue := rfl
@[simp] theorem quiet_engines (s : State) : (s.quiet).engines = s.engines := rfl
@[simp] theorem quiet_link (s : State) : (s.quiet).link = s.link := rfl
@[simp] theorem quiet_update (s : State) : (s.quiet).update = s.update := rfl
@[simp] theorem quiet_setup (s : State) : (s.quiet).setup = s.setup := rfl
@[simp] theorem quiet_alarms (s : State) : (s.quiet).alarms = s.alarms := rfl
@[simp] theorem quiet_now (s : State) : (s.quiet).now = s.now := rfl
@[simp] theorem quiet_refclkCount (s : State) : (s.quiet).refclkCount = s.refclkCount := rfl
@[simp] theorem quiet_answers (s : State) : (s.quiet).answers = [] := rfl
@[simp] theorem quiet_pending (s : State) : (s.quiet).pending = s.pending := rfl

/-! ### answer -/

@[simp] theorem answer_inReset (s : State) (p : Port) (a : Answer) : (s.answer p a).inReset = s.inReset := rfl
@[simp] theorem answer_ports (s : State) (p : Port) (a : Answer) : (s.answer p a).ports = s.ports := rfl
@[simp] theorem answer_entries (s : State) (p : Port) (a : Answer) : (s.answer p a).entries = s.entries := rfl
@[simp] theorem answer_lru (s : State) (p : Port) (a : Answer) : (s.answer p a).lru = s.lru := rfl
@[simp] theorem answer_chunks (s : State) (p : Port) (a : Answer) : (s.answer p a).chunks = s.chunks := rfl
@[simp] theorem answer_queue (s : State) (p : Port) (a : Answer) : (s.answer p a).queue = s.queue := rfl
@[simp] theorem answer_engines (s : State) (p : Port) (a : Answer) : (s.answer p a).engines = s.engines := rfl
@[simp] theorem answer_link (s : State) (p : Port) (a : Answer) : (s.answer p a).link = s.link := rfl
@[simp] theorem answer_update (s : State) (p : Port) (a : Answer) : (s.answer p a).update = s.update := rfl
@[simp] theorem answer_setup (s : State) (p : Port) (a : Answer) : (s.answer p a).setup = s.setup := rfl
@[simp] theorem answer_alarms (s : State) (p : Port) (a : Answer) : (s.answer p a).alarms = s.alarms := rfl
@[simp] theorem answer_now (s : State) (p : Port) (a : Answer) : (s.answer p a).now = s.now := rfl
@[simp] theorem answer_refclkCount (s : State) (p : Port) (a : Answer) :
    (s.answer p a).refclkCount = s.refclkCount := rfl
@[simp] theorem answer_answers (s : State) (p : Port) (a : Answer) :
    (s.answer p a).answers = s.answers ++ [⟨p, a⟩] := rfl
@[simp] theorem answer_pending (s : State) (p : Port) (a : Answer) : (s.answer p a).pending = s.pending := rfl

/-! ### setResult -/

@[simp] theorem setResult_inReset (s : State) (p : Port) (code : ResultCode) (source : Byte) :
    (s.setResult p code source).inReset = s.inReset := rfl
@[simp] theorem setResult_ports (s : State) (p : Port) (code : ResultCode) (source : Byte) :
    (s.setResult p code source).ports = s.ports.set p { s.port p with result := ⟨code, source⟩ } := rfl
@[simp] theorem setResult_entries (s : State) (p : Port) (code : ResultCode) (source : Byte) :
    (s.setResult p code source).entries = s.entries := rfl
@[simp] theorem setResult_lru (s : State) (p : Port) (code : ResultCode) (source : Byte) :
    (s.setResult p code source).lru = s.lru := rfl
@[simp] theorem setResult_chunks (s : State) (p : Port) (code : ResultCode) (source : Byte) :
    (s.setResult p code source).chunks = s.chunks := rfl
@[simp] theorem setResult_queue (s : State) (p : Port) (code : ResultCode) (source : Byte) :
    (s.setResult p code source).queue = s.queue := rfl
@[simp] theorem setResult_engines (s : State) (p : Port) (code : ResultCode) (source : Byte) :
    (s.setResult p code source).engines = s.engines := rfl
@[simp] theorem setResult_link (s : State) (p : Port) (code : ResultCode) (source : Byte) :
    (s.setResult p code source).link = s.link := rfl
@[simp] theorem setResult_update (s : State) (p : Port) (code : ResultCode) (source : Byte) :
    (s.setResult p code source).update = s.update := rfl
@[simp] theorem setResult_setup (s : State) (p : Port) (code : ResultCode) (source : Byte) :
    (s.setResult p code source).setup = s.setup := rfl
@[simp] theorem setResult_alarms (s : State) (p : Port) (code : ResultCode) (source : Byte) :
    (s.setResult p code source).alarms = s.alarms := rfl
@[simp] theorem setResult_now (s : State) (p : Port) (code : ResultCode) (source : Byte) :
    (s.setResult p code source).now = s.now := rfl
@[simp] theorem setResult_refclkCount (s : State) (p : Port) (code : ResultCode) (source : Byte) :
    (s.setResult p code source).refclkCount = s.refclkCount := rfl
@[simp] theorem setResult_answers (s : State) (p : Port) (code : ResultCode) (source : Byte) :
    (s.setResult p code source).answers = s.answers := rfl
@[simp] theorem setResult_pending (s : State) (p : Port) (code : ResultCode) (source : Byte) :
    (s.setResult p code source).pending = s.pending := rfl

/-! ### setRead -/

@[simp] theorem setRead_inReset (s : State) (p : Port) (r : Option OutstandingRead) :
    (s.setRead p r).inReset = s.inReset := rfl
@[simp] theorem setRead_ports (s : State) (p : Port) (r : Option OutstandingRead) :
    (s.setRead p r).ports = s.ports.set p { s.port p with read := r } := rfl
@[simp] theorem setRead_entries (s : State) (p : Port) (r : Option OutstandingRead) :
    (s.setRead p r).entries = s.entries := rfl
@[simp] theorem setRead_lru (s : State) (p : Port) (r : Option OutstandingRead) : (s.setRead p r).lru = s.lru := rfl
@[simp] theorem setRead_chunks (s : State) (p : Port) (r : Option OutstandingRead) :
    (s.setRead p r).chunks = s.chunks := rfl
@[simp] theorem setRead_queue (s : State) (p : Port) (r : Option OutstandingRead) :
    (s.setRead p r).queue = s.queue := rfl
@[simp] theorem setRead_engines (s : State) (p : Port) (r : Option OutstandingRead) :
    (s.setRead p r).engines = s.engines := rfl
@[simp] theorem setRead_link (s : State) (p : Port) (r : Option OutstandingRead) :
    (s.setRead p r).link = s.link := rfl
@[simp] theorem setRead_update (s : State) (p : Port) (r : Option OutstandingRead) :
    (s.setRead p r).update = s.update := rfl
@[simp] theorem setRead_setup (s : State) (p : Port) (r : Option OutstandingRead) :
    (s.setRead p r).setup = s.setup := rfl
@[simp] theorem setRead_alarms (s : State) (p : Port) (r : Option OutstandingRead) :
    (s.setRead p r).alarms = s.alarms := rfl
@[simp] theorem setRead_now (s : State) (p : Port) (r : Option OutstandingRead) : (s.setRead p r).now = s.now := rfl
@[simp] theorem setRead_refclkCount (s : State) (p : Port) (r : Option OutstandingRead) :
    (s.setRead p r).refclkCount = s.refclkCount := rfl
@[simp] theorem setRead_answers (s : State) (p : Port) (r : Option OutstandingRead) :
    (s.setRead p r).answers = s.answers := rfl
@[simp] theorem setRead_pending (s : State) (p : Port) (r : Option OutstandingRead) :
    (s.setRead p r).pending = s.pending := rfl

/-! ### reachMoment -/

@[simp] theorem reachMoment_inReset (s : State) (m : Nat) : (s.reachMoment m).inReset = s.inReset := rfl
@[simp] theorem reachMoment_ports (s : State) (m : Nat) : (s.reachMoment m).ports = s.ports := rfl
@[simp] theorem reachMoment_entries (s : State) (m : Nat) : (s.reachMoment m).entries = s.entries := rfl
@[simp] theorem reachMoment_lru (s : State) (m : Nat) : (s.reachMoment m).lru = s.lru := rfl
@[simp] theorem reachMoment_chunks (s : State) (m : Nat) : (s.reachMoment m).chunks = s.chunks := rfl
@[simp] theorem reachMoment_queue (s : State) (m : Nat) : (s.reachMoment m).queue = s.queue := rfl
@[simp] theorem reachMoment_engines (s : State) (m : Nat) : (s.reachMoment m).engines = s.engines := rfl
@[simp] theorem reachMoment_link (s : State) (m : Nat) : (s.reachMoment m).link = s.link := rfl
@[simp] theorem reachMoment_update (s : State) (m : Nat) : (s.reachMoment m).update = s.update := rfl
@[simp] theorem reachMoment_setup (s : State) (m : Nat) : (s.reachMoment m).setup = s.setup := rfl
@[simp] theorem reachMoment_alarms (s : State) (m : Nat) : (s.reachMoment m).alarms = s.alarms := rfl
@[simp] theorem reachMoment_now (s : State) (m : Nat) : (s.reachMoment m).now = max s.now m := rfl
@[simp] theorem reachMoment_refclkCount (s : State) (m : Nat) : (s.reachMoment m).refclkCount = s.refclkCount := rfl
@[simp] theorem reachMoment_answers (s : State) (m : Nat) : (s.reachMoment m).answers = s.answers := rfl
@[simp] theorem reachMoment_pending (s : State) (m : Nat) : (s.reachMoment m).pending = s.pending := rfl

/-! ### moveToMru -/

@[simp] theorem moveToMru_inReset (s : State) (e : Fin 16) : (s.moveToMru e).inReset = s.inReset := rfl
@[simp] theorem moveToMru_ports (s : State) (e : Fin 16) : (s.moveToMru e).ports = s.ports := rfl
@[simp] theorem moveToMru_entries (s : State) (e : Fin 16) : (s.moveToMru e).entries = s.entries := rfl
@[simp] theorem moveToMru_lru (s : State) (e : Fin 16) : (s.moveToMru e).lru = e :: s.lru.erase e := rfl
@[simp] theorem moveToMru_chunks (s : State) (e : Fin 16) : (s.moveToMru e).chunks = s.chunks := rfl
@[simp] theorem moveToMru_queue (s : State) (e : Fin 16) : (s.moveToMru e).queue = s.queue := rfl
@[simp] theorem moveToMru_engines (s : State) (e : Fin 16) : (s.moveToMru e).engines = s.engines := rfl
@[simp] theorem moveToMru_link (s : State) (e : Fin 16) : (s.moveToMru e).link = s.link := rfl
@[simp] theorem moveToMru_update (s : State) (e : Fin 16) : (s.moveToMru e).update = s.update := rfl
@[simp] theorem moveToMru_setup (s : State) (e : Fin 16) : (s.moveToMru e).setup = s.setup := rfl
@[simp] theorem moveToMru_alarms (s : State) (e : Fin 16) : (s.moveToMru e).alarms = s.alarms := rfl
@[simp] theorem moveToMru_now (s : State) (e : Fin 16) : (s.moveToMru e).now = s.now := rfl
@[simp] theorem moveToMru_refclkCount (s : State) (e : Fin 16) : (s.moveToMru e).refclkCount = s.refclkCount := rfl
@[simp] theorem moveToMru_answers (s : State) (e : Fin 16) : (s.moveToMru e).answers = s.answers := rfl
@[simp] theorem moveToMru_pending (s : State) (e : Fin 16) : (s.moveToMru e).pending = s.pending := rfl

/-! ### moveToLruEnd -/

@[simp] theorem moveToLruEnd_inReset (s : State) (sel : Fin 16 → Bool) :
    (s.moveToLruEnd sel).inReset = s.inReset := rfl
@[simp] theorem moveToLruEnd_ports (s : State) (sel : Fin 16 → Bool) : (s.moveToLruEnd sel).ports = s.ports := rfl
@[simp] theorem moveToLruEnd_entries (s : State) (sel : Fin 16 → Bool) :
    (s.moveToLruEnd sel).entries = s.entries := rfl
@[simp] theorem moveToLruEnd_lru (s : State) (sel : Fin 16 → Bool) :
    (s.moveToLruEnd sel).lru = s.lru.filter (fun e => !sel e) ++ s.lru.filter sel := rfl
@[simp] theorem moveToLruEnd_chunks (s : State) (sel : Fin 16 → Bool) : (s.moveToLruEnd sel).chunks = s.chunks := rfl
@[simp] theorem moveToLruEnd_queue (s : State) (sel : Fin 16 → Bool) : (s.moveToLruEnd sel).queue = s.queue := rfl
@[simp] theorem moveToLruEnd_engines (s : State) (sel : Fin 16 → Bool) :
    (s.moveToLruEnd sel).engines = s.engines := rfl
@[simp] theorem moveToLruEnd_link (s : State) (sel : Fin 16 → Bool) : (s.moveToLruEnd sel).link = s.link := rfl
@[simp] theorem moveToLruEnd_update (s : State) (sel : Fin 16 → Bool) : (s.moveToLruEnd sel).update = s.update := rfl
@[simp] theorem moveToLruEnd_setup (s : State) (sel : Fin 16 → Bool) : (s.moveToLruEnd sel).setup = s.setup := rfl
@[simp] theorem moveToLruEnd_alarms (s : State) (sel : Fin 16 → Bool) : (s.moveToLruEnd sel).alarms = s.alarms := rfl
@[simp] theorem moveToLruEnd_now (s : State) (sel : Fin 16 → Bool) : (s.moveToLruEnd sel).now = s.now := rfl
@[simp] theorem moveToLruEnd_refclkCount (s : State) (sel : Fin 16 → Bool) :
    (s.moveToLruEnd sel).refclkCount = s.refclkCount := rfl
@[simp] theorem moveToLruEnd_answers (s : State) (sel : Fin 16 → Bool) :
    (s.moveToLruEnd sel).answers = s.answers := rfl
@[simp] theorem moveToLruEnd_pending (s : State) (sel : Fin 16 → Bool) :
    (s.moveToLruEnd sel).pending = s.pending := rfl

/-! ### removeRecords -/

@[simp] theorem removeRecords_inReset (s : State) (sel : Record → Bool) :
    (s.removeRecords sel).inReset = s.inReset := rfl
@[simp] theorem removeRecords_ports (s : State) (sel : Record → Bool) : (s.removeRecords sel).ports = s.ports := rfl
@[simp] theorem removeRecords_entries (s : State) (sel : Record → Bool) :
    (s.removeRecords sel).entries = s.entries := rfl
@[simp] theorem removeRecords_lru (s : State) (sel : Record → Bool) : (s.removeRecords sel).lru = s.lru := rfl
@[simp] theorem removeRecords_chunks (s : State) (sel : Record → Bool) :
    (s.removeRecords sel).chunks = s.chunks := rfl
@[simp] theorem removeRecords_queue (s : State) (sel : Record → Bool) :
    (s.removeRecords sel).queue = s.queue.filter (fun r => !sel r) := rfl
@[simp] theorem removeRecords_engines (s : State) (sel : Record → Bool) :
    (s.removeRecords sel).engines = s.engines := rfl
@[simp] theorem removeRecords_link (s : State) (sel : Record → Bool) : (s.removeRecords sel).link = s.link := rfl
@[simp] theorem removeRecords_update (s : State) (sel : Record → Bool) :
    (s.removeRecords sel).update = s.update := rfl
@[simp] theorem removeRecords_setup (s : State) (sel : Record → Bool) : (s.removeRecords sel).setup = s.setup := rfl
@[simp] theorem removeRecords_alarms (s : State) (sel : Record → Bool) :
    (s.removeRecords sel).alarms = s.alarms := rfl
@[simp] theorem removeRecords_now (s : State) (sel : Record → Bool) : (s.removeRecords sel).now = s.now := rfl
@[simp] theorem removeRecords_refclkCount (s : State) (sel : Record → Bool) :
    (s.removeRecords sel).refclkCount = s.refclkCount := rfl
@[simp] theorem removeRecords_answers (s : State) (sel : Record → Bool) :
    (s.removeRecords sel).answers = s.answers := rfl
@[simp] theorem removeRecords_pending (s : State) (sel : Record → Bool) :
    (s.removeRecords sel).pending = s.pending := rfl

/-! ### deactivate -/

@[simp] theorem deactivate_inReset (s : State) (a : Alarm) : (s.deactivate a).inReset = s.inReset := rfl
@[simp] theorem deactivate_ports (s : State) (a : Alarm) : (s.deactivate a).ports = s.ports := rfl
@[simp] theorem deactivate_entries (s : State) (a : Alarm) : (s.deactivate a).entries = s.entries := rfl
@[simp] theorem deactivate_lru (s : State) (a : Alarm) : (s.deactivate a).lru = s.lru := rfl
@[simp] theorem deactivate_chunks (s : State) (a : Alarm) : (s.deactivate a).chunks = s.chunks := rfl
@[simp] theorem deactivate_queue (s : State) (a : Alarm) : (s.deactivate a).queue = s.queue := rfl
@[simp] theorem deactivate_engines (s : State) (a : Alarm) : (s.deactivate a).engines = s.engines := rfl
@[simp] theorem deactivate_link (s : State) (a : Alarm) : (s.deactivate a).link = s.link := rfl
@[simp] theorem deactivate_update (s : State) (a : Alarm) : (s.deactivate a).update = s.update := rfl
@[simp] theorem deactivate_setup (s : State) (a : Alarm) : (s.deactivate a).setup = s.setup := rfl
@[simp] theorem deactivate_alarms (s : State) (a : Alarm) :
    (s.deactivate a).alarms = s.alarms &&& ~~~(flag 5 a.id) := rfl
@[simp] theorem deactivate_now (s : State) (a : Alarm) : (s.deactivate a).now = s.now := rfl
@[simp] theorem deactivate_refclkCount (s : State) (a : Alarm) : (s.deactivate a).refclkCount = s.refclkCount := rfl
@[simp] theorem deactivate_answers (s : State) (a : Alarm) : (s.deactivate a).answers = s.answers := rfl
@[simp] theorem deactivate_pending (s : State) (a : Alarm) : (s.deactivate a).pending = s.pending := rfl

/-! ### Ports, engines and entries after an update -/

theorem setPort_port (s : State) (p q : Port) (v : PortState) : (s.setPort p v).port q = if q = p then v else s.port q :=
  PerPort.get_set s.ports p q v

@[simp] theorem setPort_port_same (s : State) (p : Port) (v : PortState) : (s.setPort p v).port p = v :=
  PerPort.get_set_same s.ports p v

@[simp] theorem setPort_engine (s : State) (p : Port) (v : PortState) (c : Channel) :
    (s.setPort p v).engine c = s.engine c := rfl

@[simp] theorem setPort_entry (s : State) (p : Port) (v : PortState) (e : Fin 16) :
    (s.setPort p v).entry e = s.entry e := rfl

theorem setEngine_engine (s : State) (c d : Channel) (v : Engine) :
    (s.setEngine c v).engine d = if d = c then v else s.engine d := PerChannel.get_set s.engines c d v

@[simp] theorem setEngine_engine_same (s : State) (c : Channel) (v : Engine) : (s.setEngine c v).engine c = v :=
  PerChannel.get_set_same s.engines c v

@[simp] theorem setEngine_port (s : State) (c : Channel) (v : Engine) (p : Port) :
    (s.setEngine c v).port p = s.port p := rfl

@[simp] theorem setEngine_entry (s : State) (c : Channel) (v : Engine) (e : Fin 16) :
    (s.setEngine c v).entry e = s.entry e := rfl

theorem setEntry_entry (s : State) (e d : Fin 16) (v : Entry) :
    (s.setEntry e v).entry d = if d = e then v else s.entry d := by
  unfold State.setEntry State.entry
  by_cases h : d = e
  · subst h; simp
  · have h' : (e : Nat) ≠ (d : Nat) := fun k => h (Fin.ext k.symm)
    simp [h, h']

@[simp] theorem setEntry_entry_same (s : State) (e : Fin 16) (v : Entry) : (s.setEntry e v).entry e = v := by
  rw [setEntry_entry, if_pos rfl]

@[simp] theorem setEntry_port (s : State) (e : Fin 16) (v : Entry) (p : Port) : (s.setEntry e v).port p = s.port p := rfl

@[simp] theorem setEntry_engine (s : State) (e : Fin 16) (v : Entry) (c : Channel) :
    (s.setEntry e v).engine c = s.engine c := rfl

@[simp] theorem quiet_port (s : State) (p : Port) : s.quiet.port p = s.port p := rfl

@[simp] theorem quiet_entry (s : State) (e : Fin 16) : s.quiet.entry e = s.entry e := rfl

@[simp] theorem quiet_engine (s : State) (c : Channel) : s.quiet.engine c = s.engine c := rfl

@[simp] theorem answer_port (s : State) (p q : Port) (a : Answer) : (s.answer p a).port q = s.port q := rfl

@[simp] theorem answer_entry (s : State) (p : Port) (a : Answer) (e : Fin 16) : (s.answer p a).entry e = s.entry e := rfl

@[simp] theorem answer_engine (s : State) (p : Port) (a : Answer) (c : Channel) :
    (s.answer p a).engine c = s.engine c := rfl

@[simp] theorem moveToMru_entry (s : State) (e d : Fin 16) : (s.moveToMru e).entry d = s.entry d := rfl

@[simp] theorem moveToLruEnd_entry (s : State) (sel : Fin 16 → Bool) (d : Fin 16) :
    (s.moveToLruEnd sel).entry d = s.entry d := rfl

end Sys2Proof.Machine
end

