-- ==== Sys2Proof/Laws/Kept.lean ====
section
/-! SUPPORT. What the shared operations leave alone. `Steady` holds of every operation inside an event; `Local` of those
of the read path, the preloads and the drops, which touch only reads, records, entries and preloads. -/

namespace Sys2Proof.Machine

/-- The fields of a port that only its own register writes, a detach and an attach change. -/
structure PortSteady (x y : PortState) : Prop where
  portEn : y.portEn = x.portEn
  attached : y.attached = x.attached
  result : y.result = x.result
  holdLimit : y.holdLimit = x.holdLimit
  burst : y.burst = x.burst
  autoFence : y.autoFence = x.autoFence
  fenceMask : y.fenceMask = x.fenceMask
  enables : y.enables = x.enables
  vectorShift : y.vectorShift = x.vectorShift
  vectorBase : y.vectorBase = x.vectorBase
  snapshot : y.snapshot = x.snapshot

theorem PortSteady.refl (x : PortState) : PortSteady x x := ⟨rfl, rfl, rfl, rfl, rfl, rfl, rfl, rfl, rfl, rfl, rfl⟩

theorem PortSteady.trans {x y z : PortState} (h : PortSteady x y) (k : PortSteady y z) : PortSteady x z :=
  ⟨k.1.trans h.1, k.2.trans h.2, k.3.trans h.3, k.4.trans h.4, k.5.trans h.5, k.6.trans h.6, k.7.trans h.7,
    k.8.trans h.8, k.9.trans h.9, k.10.trans h.10, k.11.trans h.11⟩

/-- The parts of the hub that no operation inside an event touches. -/
structure Steady (s t : State) : Prop where
  inReset : t.inReset = s.inReset
  setup : t.setup = s.setup
  now : t.now = s.now
  refclkCount : t.refclkCount = s.refclkCount
  pending : t.pending = s.pending
  ports : ∀ p, PortSteady (s.port p) (t.port p)

theorem Steady.refl (s : State) : Steady s s := ⟨rfl, rfl, rfl, rfl, rfl, fun _ => .refl _⟩

theorem Steady.trans {s t u : State} (h : Steady s t) (k : Steady t u) : Steady s u :=
  ⟨k.1.trans h.1, k.2.trans h.2, k.3.trans h.3, k.4.trans h.4, k.5.trans h.5, fun p => (h.6 p).trans (k.6 p)⟩

/-- What an alarm leaves alone beyond that: the buffers, the Update Controller, the link and the engines. -/
structure Contained (s t : State) : Prop extends Steady s t where
  chunks : t.chunks = s.chunks
  update : t.update = s.update
  link : t.link = s.link
  engines : t.engines = s.engines

theorem Contained.refl (s : State) : Contained s s := ⟨.refl s, rfl, rfl, rfl, rfl⟩

theorem Contained.trans {s t u : State} (h : Contained s t) (k : Contained t u) : Contained s u :=
  ⟨h.1.trans k.1, k.2.trans h.2, k.3.trans h.3, k.4.trans h.4, k.5.trans h.5⟩

/-- What the read path, the preloads and the drops leave alone beyond that: the active alarm set and every port's fence and
latched flags. -/
structure Local (s t : State) : Prop extends Contained s t where
  alarms : t.alarms = s.alarms
  fenced : ∀ p, (t.port p).fenced = (s.port p).fenced
  latched : ∀ p, (t.port p).latched = (s.port p).latched

theorem Local.refl (s : State) : Local s s :=
  ⟨.refl s, rfl, fun _ => rfl, fun _ => rfl⟩

theorem Local.trans {s t u : State} (h : Local s t) (k : Local t u) : Local s u :=
  ⟨h.1.trans k.1, k.2.trans h.2, fun p => (k.3 p).trans (h.3 p), fun p => (k.4 p).trans (h.4 p)⟩

theorem Steady.foldl {α : Type} (l : List α) (f : State → α → State) (h : ∀ t x, Steady t (f t x)) (s : State) :
    Steady s (l.foldl f s) := by
  induction l generalizing s with
  | nil => exact .refl s
  | cons x l ih => exact (h s x).trans (ih _)

theorem Local.foldl {α : Type} (l : List α) (f : State → α → State) (h : ∀ t x, Local t (f t x)) (s : State) :
    Local s (l.foldl f s) := by
  induction l generalizing s with
  | nil => exact .refl s
  | cons x l ih => exact (h s x).trans (ih _)

/-- An update that leaves the ports and the listed fields alone is local. -/
theorem Local.of_eq {s t : State} (h1 : t.inReset = s.inReset) (h2 : t.setup = s.setup) (h3 : t.now = s.now)
    (h4 : t.refclkCount = s.refclkCount) (h5 : t.pending = s.pending) (h6 : t.ports = s.ports)
    (h7 : t.chunks = s.chunks) (h8 : t.update = s.update) (h9 : t.link = s.link) (h10 : t.alarms = s.alarms)
    (h11 : t.engines = s.engines) : Local s t := by
  have hp : ∀ p, t.port p = s.port p := fun p => by unfold State.port; rw [h6]
  exact ⟨⟨⟨h1, h2, h3, h4, h5, fun p => by rw [hp]; exact .refl _⟩, h7, h8, h9, h11⟩, h10,
    fun p => by rw [hp], fun p => by rw [hp]⟩

/-- Replacing a port by one that keeps its steady fields and its alarm and fence flags is local. -/
theorem setPort_local (s : State) (p : Port) (v : PortState) (h : PortSteady (s.port p) v)
    (hf : v.fenced = (s.port p).fenced) (hl : v.latched = (s.port p).latched) : Local s (s.setPort p v) := by
  refine ⟨⟨⟨rfl, rfl, rfl, rfl, rfl, fun q => ?_⟩, rfl, rfl, rfl, rfl⟩, rfl, fun q => ?_, fun q => ?_⟩ <;>
    rw [setPort_port] <;> split
  · subst_vars; exact h
  · exact .refl _
  · subst_vars; exact hf
  · rfl
  · subst_vars; exact hl
  · rfl

/-- Replacing a port by one that keeps its steady fields is steady. -/
theorem setPort_steady (s : State) (p : Port) (v : PortState) (h : PortSteady (s.port p) v) : Steady s (s.setPort p v) := by
  refine ⟨rfl, rfl, rfl, rfl, rfl, fun q => ?_⟩
  rw [setPort_port]
  split
  · subst_vars; exact h
  · exact .refl _

/-! ### The read path -/

theorem setRead_local (s : State) (p : Port) (r : Option OutstandingRead) : Local s (s.setRead p r) :=
  setPort_local s p _ ⟨rfl, rfl, rfl, rfl, rfl, rfl, rfl, rfl, rfl, rfl, rfl⟩ rfl rfl

theorem answer_local (s : State) (p : Port) (a : Answer) : Local s (s.answer p a) :=
  .of_eq rfl rfl rfl rfl rfl rfl rfl rfl rfl rfl rfl

theorem answerError_local (s : State) (p : Port) (reason : ErrorReason) (x : ImageAddress) :
    Local s (s.answerError p reason x) :=
  (setPort_local s p { s.port p with lastError := ⟨reason, x⟩ }
    ⟨rfl, rfl, rfl, rfl, rfl, rfl, rfl, rfl, rfl, rfl, rfl⟩ rfl rfl).trans (answer_local _ _ _)

theorem setEntry_local (s : State) (e : Fin 16) (v : Entry) : Local s (s.setEntry e v) :=
  .of_eq rfl rfl rfl rfl rfl rfl rfl rfl rfl rfl rfl

theorem moveToMru_local (s : State) (e : Fin 16) : Local s (s.moveToMru e) :=
  .of_eq rfl rfl rfl rfl rfl rfl rfl rfl rfl rfl rfl

theorem moveToLruEnd_local (s : State) (sel : Fin 16 → Bool) : Local s (s.moveToLruEnd sel) :=
  .of_eq rfl rfl rfl rfl rfl rfl rfl rfl rfl rfl rfl

theorem allocate_local (s : State) (e : Fin 16) (block : Nat) : Local s (s.allocate e block) :=
  (setEntry_local s e _).trans (moveToMru_local _ e)

theorem removeRecords_local (s : State) (sel : Record → Bool) : Local s (s.removeRecords sel) :=
  .of_eq rfl rfl rfl rfl rfl rfl rfl rfl rfl rfl rfl

theorem leaveRecords_local (s : State) (p : Port) : Local s (s.leaveRecords p) :=
  .of_eq rfl rfl rfl rfl rfl rfl rfl rfl rfl rfl rfl

theorem recomputeLevels_local (s : State) (p : Port) : Local s (s.recomputeLevels p) :=
  .of_eq rfl rfl rfl rfl rfl rfl rfl rfl rfl rfl rfl

theorem join_local (s : State) (p : Port) (i : Nat) : Local s (s.join p i) :=
  .of_eq rfl rfl rfl rfl rfl rfl rfl rfl rfl rfl rfl

theorem createDemandFill_local (s : State) (p : Port) (e : Fin 16) (block c : Nat) :
    Local s (s.createDemandFill p e block c) := .of_eq rfl rfl rfl rfl rfl rfl rfl rfl rfl rfl rfl

theorem createPreloadFill_local (s : State) (p : Port) (e : Fin 16) (block c : Nat) :
    Local s (s.createPreloadFill p e block c) := .of_eq rfl rfl rfl rfl rfl rfl rfl rfl rfl rfl rfl

theorem missRead_local (s : State) (p : Port) (x : Nat) (found : Option (Fin 16)) :
    Local s (s.missRead p x found).1 := by
  unfold State.missRead State.fillFor
  repeat' split
  all_goals first
    | exact .refl s
    | exact join_local s p _
    | exact createDemandFill_local s p _ _ _
    | exact (allocate_local s _ _).trans (createDemandFill_local _ p _ _ _)

theorem evalRead_local (s : State) (p : Port) (x : ImageAddress) (n : Nat) : Local s (s.evalRead p x n).1 := by
  unfold State.evalRead
  simp only
  repeat' split
  all_goals first
    | exact .refl s
    | exact moveToMru_local s _
    | exact missRead_local s p _ _

theorem takeRead_local (s : State) (p : Port) (x : ImageAddress) (n : Nat) (d : Option Nat) :
    Local s (s.takeRead p x n d) := by
  have h := evalRead_local s p x n
  unfold State.takeRead
  split <;> rename_i t _ he <;> rw [he] at h
  · exact h.trans ((setRead_local t p none).trans (answer_local _ _ _))
  · exact h.trans ((setRead_local t p none).trans (answerError_local _ _ _ _))
  · exact h.trans (setRead_local t p _)

theorem retake_local (s : State) (p : Port) : Local s (s.retake p) := by
  unfold State.retake
  split
  · exact takeRead_local s p _ _ _
  · exact .refl s

theorem pass_local (s : State) (which : PortSet) : Local s (s.pass which) := by
  unfold State.pass
  refine Local.foldl _ _ (fun t p => ?_) s
  split
  · exact retake_local t p
  · exact .refl t

theorem answerLinkDown_local (s : State) (p : Port) : Local s (s.answerLinkDown p) := by
  unfold State.answerLinkDown
  split
  · exact (setRead_local s p none).trans (answerError_local _ _ _ _)
  · exact .refl s

theorem removeLinkDown_local (s : State) (sel : Record → Bool) : Local s (s.removeLinkDown sel) := by
  unfold State.removeLinkDown
  refine (removeRecords_local s sel).trans (Local.foldl _ _ (fun t p => ?_) _)
  split
  · exact answerLinkDown_local t p
  · exact .refl t

theorem holdForUpdate_local (s : State) (p : Port) : Local s (s.holdForUpdate p) :=
  setPort_local s p _ ⟨rfl, rfl, rfl, rfl, rfl, rfl, rfl, rfl, rfl, rfl, rfl⟩ rfl rfl

theorem answerFromFill_local (s : State) (f : Fill) (data : List Byte) (p : Port) :
    Local s (s.answerFromFill f data p) := by
  unfold State.answerFromFill
  split
  · exact (setRead_local s p none).trans (answer_local _ _ _)
  · exact .refl s

theorem endDrain_local (s : State) (e : Fin 16) : Local s (s.endDrain e) := by
  unfold State.endDrain
  split
  · exact setEntry_local s e _
  · exact .refl s

theorem endDrains_local (s : State) : Local s s.endDrains := Local.foldl _ _ endDrain_local s

theorem addHolder_local (s : State) (e : Fin 16) (p : Port) : Local s (s.addHolder e p) := setEntry_local s e _

theorem removeHolder_local (s : State) (e : Fin 16) (p : Port) : Local s (s.removeHolder e p) := setEntry_local s e _

theorem removeAllHolds_local (s : State) (p : Port) : Local s (s.removeAllHolds p) :=
  Local.foldl _ _ (fun t e => removeHolder_local t e p) s

/-! ### Notices, preloads and drops -/

theorem PortState.raise_steady (x : PortState) (n : Notice) : PortSteady x (x.raise n) := by
  unfold PortState.raise
  split <;> exact ⟨rfl, rfl, rfl, rfl, rfl, rfl, rfl, rfl, rfl, rfl, rfl⟩

theorem raise_local (s : State) (p : Port) (n : Notice) : Local s (s.raise p n) := by
  unfold State.raise
  split
  · refine setPort_local s p _ (PortState.raise_steady _ n) ?_ ?_ <;> unfold PortState.raise <;> split <;> rfl
  · exact .refl s

theorem raiseAll_local (s : State) (n : Notice) : Local s (s.raiseAll n) :=
  Local.foldl _ _ (fun t p => raise_local t p n) s

theorem clearOwner_local (s : State) (p : Port) (e : Fin 16) : Local s (s.clearOwner p e) := by
  unfold State.clearOwner
  split
  · exact setEntry_local s _ _
  · exact .refl s

theorem recordPreloadEnd_local (s : State) (p : Port) (status : PreloadStatus) :
    Local s (s.recordPreloadEnd p status) := by
  have h : Local s (s.setPort p { s.port p with preload :=
      { (s.port p).preload with running := false, lastStatus := status } }) :=
    setPort_local s p _ ⟨rfl, rfl, rfl, rfl, rfl, rfl, rfl, rfl, rfl, rfl, rfl⟩ rfl rfl
  unfold State.recordPreloadEnd
  simp only
  split
  · exact h
  · exact h.trans (raise_local _ _ _)

theorem endPreload_local (g : Ongoing) (p : Port) (status : PreloadStatus) :
    Local g.hub (g.endPreload p status).hub := by
  unfold Ongoing.endPreload
  simp only
  split
  · exact (removeRecords_local _ _).trans ((clearOwner_local _ _ _).trans (recordPreloadEnd_local _ _ _))
  · exact .refl _

theorem Ongoing.foldl_local {α : Type} (l : List α) (f : Ongoing → α → Ongoing)
    (h : ∀ g x, Local g.hub (f g x).hub) (g : Ongoing) : Local g.hub (l.foldl f g).hub := by
  induction l generalizing g with
  | nil => exact .refl _
  | cons x l ih => exact (h g x).trans (ih _)

theorem endPreloadsLink_local (g : Ongoing) (sel : State → Port → Bool) :
    Local g.hub (g.endPreloadsLink sel).hub := by
  refine Ongoing.foldl_local _ _ (fun h p => ?_) g
  split
  · exact endPreload_local h p _
  · exact .refl _

theorem retakeHeld_local (s : State) (state : ReadState) : Local s (s.retakeHeld state) := pass_local _ _

theorem retakeVictims_local (g : Ongoing) (also : PortSet) : Local g.hub (g.retakeVictims also).hub := pass_local _ _

theorem retakeDue_local (g : Ongoing) : Local g.hub g.retakeDue.hub := by
  unfold Ongoing.retakeDue
  split
  · exact retakeVictims_local g _
  · exact pass_local _ _

theorem actCursor_local (g : Ongoing) (p : Port) : Local g.hub (g.actCursor p).hub := by
  unfold Ongoing.actCursor
  simp only
  repeat' split
  all_goals first
    | exact .refl _
    | exact endPreload_local g p _
    | exact createPreloadFill_local _ _ _ _ _

theorem actCursors_local (g : Ongoing) : Local g.hub g.actCursors.hub := Ongoing.foldl_local _ _ actCursor_local g

theorem endOwnedPreload_local (g : Ongoing) (e : Fin 16) : Local g.hub (g.endOwnedPreload e).hub := by
  unfold Ongoing.endOwnedPreload
  split
  · exact endPreload_local g _ _
  · exact .refl _

theorem dropEntry_local (g : Ongoing) (e : Fin 16) : Local g.hub (g.dropEntry e).hub := by
  unfold Ongoing.dropEntry
  split
  · exact (removeRecords_local g.hub _).trans ((endOwnedPreload_local (g.removeForDrop e) e).trans (setEntry_local _ _ _))
  · exact .refl _

theorem drop_local (g : Ongoing) (sel : Fin 16 → Bool) : Local g.hub (g.drop sel).hub := by
  refine Local.trans (Ongoing.foldl_local allEntries _ (fun h e => ?_) g) (moveToLruEnd_local _ _)
  split
  · exact dropEntry_local h e
  · exact .refl _

/-! ### Alarms and fences -/

theorem setPort_contained (s : State) (p : Port) (v : PortState) (h : PortSteady (s.port p) v) :
    Contained s (s.setPort p v) := ⟨setPort_steady s p v h, rfl, rfl, rfl, rfl⟩

theorem fence_contained (g : Ongoing) (p : Port) : Contained g.hub (g.fence p).hub := by
  unfold Ongoing.fence
  refine Contained.trans ?_ (endPreload_local _ p .fenced).toContained
  exact (setPort_contained _ p { g.hub.port p with fenced := true }
    ⟨rfl, rfl, rfl, rfl, rfl, rfl, rfl, rfl, rfl, rfl, rfl⟩).trans (raise_local _ p .fenced).toContained

theorem alarmPort_contained (a : Alarm) (g : Ongoing) (p : Port) : Contained g.hub (Ongoing.alarmPort a g p).hub := by
  have h : Contained g.hub (g.on (fun s =>
      (s.setPort p { s.port p with latched := (s.port p).latched ||| flag 5 a.id }).raise p .alarm)).hub :=
    (setPort_contained _ p { g.hub.port p with latched := (g.hub.port p).latched ||| flag 5 a.id }
      ⟨rfl, rfl, rfl, rfl, rfl, rfl, rfl, rfl, rfl, rfl, rfl⟩).trans (raise_local _ p .alarm).toContained
  unfold Ongoing.alarmPort
  simp only
  repeat' split
  · exact h.trans (fence_contained _ p)
  · exact h
  · exact .refl _

theorem Ongoing.foldl_contained {α : Type} (l : List α) (f : Ongoing → α → Ongoing)
    (h : ∀ g x, Contained g.hub (f g x).hub) (g : Ongoing) : Contained g.hub (l.foldl f g).hub := by
  induction l generalizing g with
  | nil => exact .refl _
  | cons x l ih => exact (h g x).trans (ih _)

theorem activate_contained (g : Ongoing) (a : Alarm) : Contained g.hub (g.activate a).hub := by
  unfold Ongoing.activate
  split
  · exact .refl _
  · have h : Contained g.hub (g.on (fun s => { s with alarms := s.alarms ||| flag 5 a.id })).hub :=
      ⟨⟨rfl, rfl, rfl, rfl, rfl, fun _ => .refl _⟩, rfl, rfl, rfl, rfl⟩
    exact h.trans (Ongoing.foldl_contained _ _ (alarmPort_contained a) _)

/-! ### The end of an event -/

/-- What the end of an event leaves alone: as an alarm, but the engines, the link state and the active alarm set change. -/
structure Concluded (s t : State) : Prop extends Steady s t where
  chunks : t.chunks = s.chunks
  update : t.update = s.update
  link : t.link = { s.link with state := t.link.state }

theorem Concluded.refl (s : State) : Concluded s s := ⟨.refl s, rfl, rfl, rfl⟩

theorem Concluded.trans {s t u : State} (h : Concluded s t) (k : Concluded t u) : Concluded s u :=
  ⟨h.1.trans k.1, k.2.trans h.2, k.3.trans h.3, k.4.trans (by rw [h.4])⟩

theorem Contained.toConcluded {s t : State} (h : Contained s t) : Concluded s t :=
  ⟨h.1, h.2, h.3, by rw [h.4]⟩

/-- An update of the queue, the engines, the alarms and the link state alone concludes. -/
theorem Concluded.of_eq {s t : State} (h1 : t.inReset = s.inReset) (h2 : t.setup = s.setup) (h3 : t.now = s.now)
    (h4 : t.refclkCount = s.refclkCount) (h5 : t.pending = s.pending) (h6 : t.ports = s.ports)
    (h7 : t.chunks = s.chunks) (h8 : t.update = s.update) (h9 : t.link = { s.link with state := t.link.state }) :
    Concluded s t := by
  have hp : ∀ p, t.port p = s.port p := fun p => by unfold State.port; rw [h6]
  exact ⟨⟨h1, h2, h3, h4, h5, fun p => by rw [hp]; exact .refl _⟩, h7, h8, h9⟩

theorem serve_concluded (s : State) (c : Channel) (r : Record) (i : Nat) : Concluded s (s.serve c r i) := by
  unfold State.serve State.openRecord
  split <;> exact .of_eq rfl rfl rfl rfl rfl rfl rfl rfl rfl

theorem dispatchOne_concluded (s : State) : Concluded s s.dispatchOne := by
  unfold State.dispatchOne
  split
  · exact serve_concluded _ _ _ _
  · exact .refl s

theorem dispatch_concluded (s : State) : Concluded s s.dispatch :=
  (dispatchOne_concluded s).trans (dispatchOne_concluded _)

theorem stopEngine_concluded (s : State) (c : Channel) : Concluded s (s.stopEngine c) := by
  unfold State.stopEngine
  simp only
  repeat' split
  all_goals exact .of_eq rfl rfl rfl rfl rfl rfl rfl rfl rfl

theorem completeStop_concluded (s : State) : Concluded s s.completeStop := by
  unfold State.completeStop
  simp only
  split
  · exact ((stopEngine_concluded s .a).trans (stopEngine_concluded _ .b)).trans
      (.of_eq rfl rfl rfl rfl rfl rfl rfl rfl rfl)
  · exact .refl s

/-- Everything the end of an event can do: it takes reads again, lets cursors act, dispatches and completes a stop. -/
theorem settle_concluded (g : Ongoing) : Concluded g.hub g.settle := by
  unfold Ongoing.settle
  exact (((retakeDue_local g).trans ((actCursors_local _).trans (retakeDue_local _))).toConcluded).trans
    ((dispatch_concluded _).trans (completeStop_concluded _))

end Sys2Proof.Machine
end

