-- ==== Sys2Proof/Laws/Entries.lean ====
section
/-! SUPPORT. What taking reads again and the end of an event can do to a directory entry and to a port. -/

namespace Sys2Proof.Machine

/-- An entry after reads were taken again and cursors acted: the same but for its preload owner, or given to a block, which
only an EMPTY entry and an unlocked LIVE one can be. -/
def EntrySettled (x y : Entry) : Prop :=
  (y.state = x.state ∧ y.tag = x.tag ∧ y.valid = x.valid ∧ y.holders = x.holders ∧ (y.owner = x.owner ∨ y.owner = none)) ∨
    (y.state = .live ∧ y.valid = 0 ∧ y.holders = .empty ∧ y.owner = none ∧
      (x.state = .empty ∨ (x.state = .live ∧ x.locked = false)))

theorem EntrySettled.refl (x : Entry) : EntrySettled x x := Or.inl ⟨rfl, rfl, rfl, rfl, Or.inl rfl⟩

theorem EntrySettled.trans {x y z : Entry} (h : EntrySettled x y) (k : EntrySettled y z) : EntrySettled x z := by
  rcases h with ⟨h1, h2, h3, h4, h5⟩ | ⟨h1, h2, h3, h4, h5⟩
  · rcases k with ⟨k1, k2, k3, k4, k5⟩ | ⟨k1, k2, k3, k4, k5⟩
    · refine Or.inl ⟨k1.trans h1, k2.trans h2, k3.trans h3, k4.trans h4, ?_⟩
      rcases k5 with k5 | k5
      · rw [k5]; exact h5
      · exact Or.inr k5
    · refine Or.inr ⟨k1, k2, k3, k4, ?_⟩
      unfold Entry.locked at *
      rw [h1, h4] at k5
      exact k5
  · rcases k with ⟨k1, k2, k3, k4, k5⟩ | ⟨k1, k2, k3, k4, _⟩
    · refine Or.inr ⟨k1.trans h1, k3.trans h2, k4.trans h3, ?_, h5⟩
      rcases k5 with k5 | k5
      · rw [k5]; exact h4
      · exact k5
    · exact Or.inr ⟨k1, k2, k3, k4, h5⟩

/-- Every entry is as the end of an event leaves it. -/
def EntriesSettled (s t : State) : Prop := ∀ e, EntrySettled (s.entry e) (t.entry e)

theorem EntriesSettled.refl (s : State) : EntriesSettled s s := fun _ => .refl _

theorem EntriesSettled.trans {s t u : State} (h : EntriesSettled s t) (k : EntriesSettled t u) : EntriesSettled s u :=
  fun e => (h e).trans (k e)

theorem EntriesSettled.of_eq {s t : State} (h : t.entries = s.entries) : EntriesSettled s t := fun e => by
  unfold State.entry
  rw [h]
  exact .refl _

theorem EntriesSettled.foldl {α : Type} (l : List α) (f : State → α → State) (h : ∀ t x, EntriesSettled t (f t x))
    (s : State) : EntriesSettled s (l.foldl f s) := by
  induction l generalizing s with
  | nil => exact .refl s
  | cons x l ih => exact (h s x).trans (ih _)

theorem Ongoing.foldl_settled {α : Type} (l : List α) (f : Ongoing → α → Ongoing)
    (h : ∀ g x, EntriesSettled g.hub (f g x).hub) (g : Ongoing) : EntriesSettled g.hub (l.foldl f g).hub := by
  induction l generalizing g with
  | nil => exact .refl _
  | cons x l ih => exact (h g x).trans (ih _)

/-- An entry after reads were taken again: the same, or given to a block when it was EMPTY or LIVE, unlocked and unowned. -/
def EntryTaken (x y : Entry) : Prop :=
  y = x ∨
    (y.state = .live ∧ y.valid = 0 ∧ y.holders = .empty ∧ y.owner = none ∧
      (x.state = .empty ∨ (x.state = .live ∧ x.locked = false ∧ x.owner = none)))

theorem EntryTaken.trans {x y z : Entry} (h : EntryTaken x y) (k : EntryTaken y z) : EntryTaken x z := by
  rcases k with rfl | ⟨k1, k2, k3, k4, k5⟩
  · exact h
  · rcases h with rfl | ⟨_, _, _, _, h5⟩
    · exact Or.inr ⟨k1, k2, k3, k4, k5⟩
    · exact Or.inr ⟨k1, k2, k3, k4, h5⟩

theorem EntryTaken.settled {x y : Entry} (h : EntryTaken x y) : EntrySettled x y := by
  rcases h with rfl | ⟨h1, h2, h3, h4, h5⟩
  · exact .refl _
  · refine Or.inr ⟨h1, h2, h3, h4, ?_⟩
    rcases h5 with h5 | h5
    · exact Or.inl h5
    · exact Or.inr ⟨h5.1, h5.2.1⟩

/-- Every entry is as taking reads again leaves it. -/
def EntriesTaken (s t : State) : Prop := ∀ e, EntryTaken (s.entry e) (t.entry e)

theorem EntriesTaken.refl (s : State) : EntriesTaken s s := fun _ => Or.inl rfl

theorem EntriesTaken.trans {s t u : State} (h : EntriesTaken s t) (k : EntriesTaken t u) : EntriesTaken s u :=
  fun e => (h e).trans (k e)

theorem EntriesTaken.of_eq {s t : State} (h : t.entries = s.entries) : EntriesTaken s t := fun e => by
  unfold State.entry
  rw [h]
  exact Or.inl rfl

theorem EntriesTaken.foldl {α : Type} (l : List α) (f : State → α → State) (h : ∀ t x, EntriesTaken t (f t x))
    (s : State) : EntriesTaken s (l.foldl f s) := by
  induction l generalizing s with
  | nil => exact .refl s
  | cons x l ih => exact (h s x).trans (ih _)

theorem EntriesTaken.settled {s t : State} (h : EntriesTaken s t) : EntriesSettled s t := fun e => (h e).settled

theorem eligible_cases {s : State} {e : Fin 16} (h : s.eligible e = true) :
    (s.entry e).state = .empty ∨
      ((s.entry e).state = .live ∧ (s.entry e).locked = false ∧ (s.entry e).owner = none ∧ s.named e = false) := by
  unfold State.eligible at h
  split at h
  · rename_i hs; exact Or.inl hs
  · rename_i hs
    simp only [Bool.and_eq_true, Bool.not_eq_true', Option.isNone_iff_eq_none] at h
    exact Or.inr ⟨hs, h.1.1, h.1.2, h.2⟩
  · cases h

theorem allocate_taken (s : State) (e : Fin 16) (block : Nat) (h : s.eligible e = true) :
    EntriesTaken s (s.allocate e block) := by
  intro d
  change EntryTaken _ ((s.setEntry e _).entry d)
  rw [setEntry_entry]
  split
  · rename_i hd
    subst hd
    refine Or.inr ⟨rfl, rfl, rfl, rfl, ?_⟩
    rcases eligible_cases h with h | h
    · exact Or.inl h
    · exact Or.inr ⟨h.1, h.2.1, h.2.2.1⟩
  · exact Or.inl rfl

theorem missRead_taken (s : State) (p : Port) (x : Nat) (found : Option (Fin 16)) :
    EntriesTaken s (s.missRead p x found).1 := by
  unfold State.missRead State.fillFor
  split
  · exact .refl s
  · split
    · split
      · exact .of_eq rfl
      · split
        · exact .refl s
        · exact .of_eq rfl
    · split
      · exact .refl s
      · split
        · rename_i e he
          exact (allocate_taken s e _ (List.find?_some he)).trans (.of_eq rfl)
        · exact .refl s

theorem evalRead_taken (s : State) (p : Port) (x : ImageAddress) (n : Nat) : EntriesTaken s (s.evalRead p x n).1 := by
  unfold State.evalRead
  simp only
  split
  · exact .refl s
  split
  · exact .refl s
  split
  · exact .refl s
  split
  · split
    · exact .of_eq rfl
    · exact missRead_taken s p _ _
  · exact missRead_taken s p _ _

theorem takeRead_taken (s : State) (p : Port) (x : ImageAddress) (n : Nat) (d : Option Nat) :
    EntriesTaken s (s.takeRead p x n d) := by
  have h := evalRead_taken s p x n
  unfold State.takeRead
  split <;> rename_i t _ he <;> rw [he] at h
  · exact h.trans (.of_eq rfl)
  · exact h.trans (.of_eq rfl)
  · exact h.trans (.of_eq rfl)

theorem retake_taken (s : State) (p : Port) : EntriesTaken s (s.retake p) := by
  unfold State.retake
  split
  · exact takeRead_taken s p _ _ _
  · exact .refl s

theorem pass_taken (s : State) (which : PortSet) : EntriesTaken s (s.pass which) := by
  unfold State.pass
  refine EntriesTaken.foldl _ _ (fun t p => ?_) s
  split
  · exact retake_taken t p
  · exact .refl t

theorem raise_settled (s : State) (p : Port) (n : Notice) : EntriesSettled s (s.raise p n) := by
  unfold State.raise
  split
  · exact .of_eq rfl
  · exact .refl s

theorem clearOwner_settled (s : State) (p : Port) (e : Fin 16) : EntriesSettled s (s.clearOwner p e) := by
  unfold State.clearOwner
  split
  · intro d
    rw [setEntry_entry]
    split
    · subst_vars
      exact Or.inl ⟨rfl, rfl, rfl, rfl, Or.inr rfl⟩
    · exact .refl _
  · exact .refl s

theorem removeRecords_settled (s : State) (sel : Record → Bool) : EntriesSettled s (s.removeRecords sel) := .of_eq rfl

theorem recordPreloadEnd_settled (s : State) (p : Port) (status : PreloadStatus) :
    EntriesSettled s (s.recordPreloadEnd p status) := by
  unfold State.recordPreloadEnd
  simp only
  split
  · exact .of_eq rfl
  · exact EntriesSettled.trans (.of_eq rfl) (raise_settled _ _ _)

theorem endPreload_settled (g : Ongoing) (p : Port) (status : PreloadStatus) :
    EntriesSettled g.hub (g.endPreload p status).hub := by
  unfold Ongoing.endPreload
  simp only
  split
  · exact ((removeRecords_settled _ _).trans (clearOwner_settled _ _ _)).trans (recordPreloadEnd_settled _ _ _)
  · exact .refl _

theorem retakeDue_settled (g : Ongoing) : EntriesSettled g.hub g.retakeDue.hub := by
  unfold Ongoing.retakeDue
  split
  · exact (pass_taken _ _).settled
  · exact (pass_taken _ _).settled

theorem actCursor_settled (g : Ongoing) (p : Port) : EntriesSettled g.hub (g.actCursor p).hub := by
  unfold Ongoing.actCursor
  simp only
  split
  · split
    · exact endPreload_settled g p _
    · split
      · exact .refl _
      · split
        · exact .of_eq rfl
        · exact .refl _
  · exact .refl _

theorem actCursors_settled (g : Ongoing) : EntriesSettled g.hub g.actCursors.hub :=
  Ongoing.foldl_settled _ _ actCursor_settled g

theorem dispatchOne_entries (s : State) : s.dispatchOne.entries = s.entries := by
  unfold State.dispatchOne State.serve State.openRecord
  split
  · split <;> rfl
  · rfl

theorem dispatch_settled (s : State) : EntriesSettled s s.dispatch :=
  .of_eq ((dispatchOne_entries _).trans (dispatchOne_entries s))

theorem stopEngine_entries (s : State) (c : Channel) : (s.stopEngine c).entries = s.entries := by
  unfold State.stopEngine
  simp only
  repeat' split
  all_goals rfl

theorem completeStop_settled (s : State) : EntriesSettled s s.completeStop := by
  unfold State.completeStop
  simp only
  split
  · exact .of_eq ((stopEngine_entries _ .b).trans (stopEngine_entries s .a))
  · exact .refl s

/-- What the end of an event can do to every directory entry. -/
theorem settle_entries (g : Ongoing) : EntriesSettled g.hub g.settle := by
  unfold Ongoing.settle
  exact ((retakeDue_settled g).trans ((actCursors_settled _).trans (retakeDue_settled _))).trans
    ((dispatch_settled _).trans (completeStop_settled _))

/-! ### Ports -/

/-- A port whose read was taken again: nothing but its read and LAST_ERROR has changed. -/
def PortTaken (x y : PortState) : Prop := y = { x with read := y.read, lastError := y.lastError }

theorem PortTaken.refl (x : PortState) : PortTaken x x := rfl

theorem PortTaken.trans {x y z : PortState} (h : PortTaken x y) (k : PortTaken y z) : PortTaken x z := by
  unfold PortTaken at *
  rw [k, h]

/-- Every port is as taking reads again leaves it. -/
def PortsTaken (s t : State) : Prop := ∀ p, PortTaken (s.port p) (t.port p)

theorem PortsTaken.refl (s : State) : PortsTaken s s := fun _ => .refl _

theorem PortsTaken.trans {s t u : State} (h : PortsTaken s t) (k : PortsTaken t u) : PortsTaken s u :=
  fun p => (h p).trans (k p)

theorem PortsTaken.of_eq {s t : State} (h : t.ports = s.ports) : PortsTaken s t := fun p => by
  unfold State.port
  rw [h]
  exact .refl _

theorem PortsTaken.foldl {α : Type} (l : List α) (f : State → α → State) (h : ∀ t x, PortsTaken t (f t x))
    (s : State) : PortsTaken s (l.foldl f s) := by
  induction l generalizing s with
  | nil => exact .refl s
  | cons x l ih => exact (h s x).trans (ih _)

theorem setPort_portsTaken (s : State) (p : Port) (v : PortState) (h : PortTaken (s.port p) v) :
    PortsTaken s (s.setPort p v) := fun q => by
  rw [setPort_port]
  split
  · subst_vars; exact h
  · exact .refl _

theorem setRead_portsTaken (s : State) (p : Port) (r : Option OutstandingRead) : PortsTaken s (s.setRead p r) :=
  setPort_portsTaken s p _ rfl

theorem answerError_portsTaken (s : State) (p : Port) (reason : ErrorReason) (x : ImageAddress) :
    PortsTaken s (s.answerError p reason x) :=
  (setPort_portsTaken s p { s.port p with lastError := ⟨reason, x⟩ } rfl).trans (.of_eq rfl)

/-- The evaluation of a read changes no port. -/
theorem evalRead_ports (s : State) (p : Port) (x : ImageAddress) (n : Nat) : (s.evalRead p x n).1.ports = s.ports := by
  have hm : ∀ found, (s.missRead p x.toNat found).1.ports = s.ports := by
    intro found
    unfold State.missRead State.fillFor
    split
    · rfl
    · split
      · split
        · rfl
        · split <;> rfl
      · split
        · rfl
        · split <;> rfl
  unfold State.evalRead
  simp only
  split
  · rfl
  split
  · rfl
  split
  · rfl
  split
  · split
    · rfl
    · exact hm _
  · exact hm _

theorem takeRead_portsTaken (s : State) (p : Port) (x : ImageAddress) (n : Nat) (d : Option Nat) :
    PortsTaken s (s.takeRead p x n d) := by
  have h := evalRead_ports s p x n
  unfold State.takeRead
  split <;> rename_i t _ he <;> rw [he] at h
  · exact (PortsTaken.of_eq h).trans ((setRead_portsTaken t p none).trans (.of_eq rfl))
  · exact (PortsTaken.of_eq h).trans ((setRead_portsTaken t p none).trans (answerError_portsTaken _ _ _ _))
  · exact (PortsTaken.of_eq h).trans (setRead_portsTaken t p _)

theorem retake_portsTaken (s : State) (p : Port) : PortsTaken s (s.retake p) := by
  unfold State.retake
  split
  · exact takeRead_portsTaken s p _ _ _
  · exact .refl s

/-- A pass changes nothing of a port but its read and LAST_ERROR. -/
theorem pass_portsTaken (s : State) (which : PortSet) : PortsTaken s (s.pass which) := by
  unfold State.pass
  refine PortsTaken.foldl _ _ (fun t p => ?_) s
  split
  · exact retake_portsTaken t p
  · exact .refl t

theorem retakeDue_portsTaken (g : Ongoing) : PortsTaken g.hub g.retakeDue.hub := by
  unfold Ongoing.retakeDue
  split
  · exact pass_portsTaken _ _
  · exact pass_portsTaken _ _

theorem dispatchOne_ports (s : State) : s.dispatchOne.ports = s.ports := by
  unfold State.dispatchOne State.serve State.openRecord
  split
  · split <;> rfl
  · rfl

theorem dispatch_ports (s : State) : s.dispatch.ports = s.ports := (dispatchOne_ports _).trans (dispatchOne_ports s)

theorem stopEngine_ports (s : State) (c : Channel) : (s.stopEngine c).ports = s.ports := by
  unfold State.stopEngine
  simp only
  repeat' split
  all_goals rfl

theorem completeStop_ports (s : State) : s.completeStop.ports = s.ports := by
  unfold State.completeStop
  simp only
  split
  · exact (stopEngine_ports _ .b).trans (stopEngine_ports s .a)
  · rfl

/-- A pass over no port does nothing. -/
theorem pass_none (s : State) (which : PortSet) (h : ∀ p, which.get p = false) : s.pass which = s := by
  simp [State.pass, allPorts, h]

/-- An event that owes nothing takes no read again. -/
theorem retakeDue_start (s : State) : (Ongoing.start s).retakeDue = .start s := by
  unfold Ongoing.retakeDue
  have h : ¬ ((Ongoing.start s).victims = true) := by simp [Ongoing.start]
  rw [if_neg h]
  change Ongoing.start (s.pass (PortSet.empty.union PortSet.empty)) = _
  rw [pass_none _ _ (by simp)]

end Sys2Proof.Machine
end

