-- ==== Sys2Proof/Laws/Moves.lean ====
section
/-! SUPPORT. Everything an event can do to the directory, the buffers, the queue and the update operation, said once: each
shared operation is a run of the moves below, so that a law about those parts is shown move by move. -/

namespace Sys2Proof.Machine

/-- Two records with the same origin and the same kind of work, which is all that a change of a record in place keeps. -/
def SameKind (r r' : Record) : Prop :=
  r'.origin = r.origin ∧ r'.fill.map Fill.kind = r.fill.map Fill.kind

theorem SameKind.refl (r : Record) : SameKind r r := ⟨rfl, rfl⟩

/-- One move. Ports, engines, the link, alarms, time, answers and waiting commands are not tracked: `other` changes them. -/
inductive Move : State → State → Prop
  | other {s t : State} (entries : t.entries = s.entries) (lru : t.lru = s.lru) (chunks : t.chunks = s.chunks)
      (queue : t.queue = s.queue) (update : t.update = s.update) : Move s t
  | toMru (s : State) (e : Fin 16) : Move s (s.moveToMru e)
  | toLruEnd (s : State) (sel : Fin 16 → Bool) : Move s (s.moveToLruEnd sel)
  /-- R34: an entry is emptied. -/
  | clear (s : State) (e : Fin 16) (state : EntryState) (h : state ≠ .live) :
      Move s (s.setEntry e { Entry.cleared with state := state })
  /-- The chunk map or the preload owner of an entry changes. -/
  | edit (s : State) (e : Fin 16) (v : Entry) (hs : v.state = (s.entry e).state) (ht : v.tag = (s.entry e).tag)
      (hh : v.holders = (s.entry e).holders) : Move s (s.setEntry e v)
  /-- R31: a drain ends. -/
  | drained (s : State) (e : Fin 16) (h : (s.entry e).state = .draining) :
      Move s (s.setEntry e { s.entry e with state := .empty })
  /-- R26: an absent block is assigned to an eligible entry. -/
  | assign (s : State) (e : Fin 16) (block : Nat) (he : s.eligible e = true) (hb : s.findBlock block = none) :
      Move s (s.setEntry e { state := .live, tag := some block, valid := 0, holders := .empty, owner := none })
  /-- R64: a port is added to the holders of a locked entry, or of any entry while the locked count is below the limit. -/
  | hold (s : State) (e : Fin 16) (p : Port) (h : (s.entry e).locked = true ∨ s.lockedCount < Config.globalLimit) :
      Move s (s.addHolder e p)
  | unhold (s : State) (e : Fin 16) (p : Port) : Move s (s.removeHolder e p)
  | store (s : State) (address : Nat) (data : List Byte) : Move s { s with chunks := s.chunks.writeRange address data }
  | shrink (s : State) (sel : Record → Bool) : Move s (s.removeRecords sel)
  | relabel {s t : State} (entries : t.entries = s.entries) (lru : t.lru = s.lru) (chunks : t.chunks = s.chunks)
      (queue : List.Forall₂ SameKind s.queue t.queue) (update : t.update = s.update) : Move s t
  /-- R84: a demand fill joins the queue while its origin's demand slot is free. -/
  | demand (s : State) (r : Record) (hr : r.isDemandOf r.origin = true) (hf : s.demandSlotBusy r.origin = false) :
      Move s { s with queue := s.queue ++ [r] }
  /-- R84: a preload fill joins the queue while its origin's preload slot is free. -/
  | preload (s : State) (r : Record) (hr : r.isPreloadOf r.origin = true) (hf : s.preloadSlotBusy r.origin = false) :
      Move s { s with queue := s.queue ++ [r] }
  /-- R135: an operation is accepted and its record joins the queue. -/
  | accept (s : State) (op : UpdateOp) (r : Record) (h : s.update.op = none) (hh : s.update.holder.isSome)
      (hr : r.isUpdateOp = true) :
      Move s { s with
        queue := s.queue ++ [r], update := { s.update with op := some op, grantTimer := none } }
  /-- R142: the operation and its record are gone. -/
  | withdraw (s : State) : Move s
      ({ s with update := { s.update with op := none } }.removeRecords Record.isUpdateOp)
  /-- The operation moves on. -/
  | phase (s : State) (op op' : UpdateOp) (h : s.update.op = some op) :
      Move s { s with update := { s.update with op := some op' } }
  | result (s : State) (r : UpdateResult) : Move s { s with update := { s.update with result := r } }
  | claim (s : State) (p : Port) (h : s.update.holder = none) :
      Move s { s with update := { s.update with holder := some p } }
  | release (s : State) (h : s.update.op = none) : Move s s.releaseGrant
  /-- R127: the grant timer has expired. -/
  | expire (s : State) (h : s.update.grantTimer.isSome) : Move s s.releaseGrant
  | timer (s : State) (m : Option Nat)
      (h : m = none ∨ (s.update.holder.isSome ∧ s.update.orphaned = false ∧ s.update.op = none)) :
      Move s { s with update := { s.update with grantTimer := m } }
  | orphan (s : State) : Move s { s with update := { s.update with orphaned := true, grantTimer := none } }
  | openPage (s : State) (page : Nat) (h : s.update.holder.isSome) :
      Move s { s with update := { s.update with stagedPage := some page, written := 0 } }
  | closePage (s : State) : Move s s.closeStaging
  | stage (s : State) (offset : Nat) (bytes : List Byte) (mask : BitVec 256) :
      Move s { s with update := { s.update with
        stagingData := s.update.stagingData.writeRange offset bytes, written := mask } }

/-- A run of moves. -/
inductive Moves : State → State → Prop
  | refl (s : State) : Moves s s
  | step {s t u : State} (h : Moves s t) (k : Move t u) : Moves s u

theorem Move.moves {s t : State} (h : Move s t) : Moves s t := .step (.refl s) h

theorem Moves.trans {s t u : State} (h : Moves s t) (k : Moves t u) : Moves s u := by
  induction k with
  | refl => exact h
  | step _ k ih => exact .step ih k

/-- A law that every move keeps is kept by every run of moves. -/
theorem Moves.keep {P : State → Prop} (hP : ∀ s t, Move s t → P s → P t) {s t : State} (h : Moves s t) (hs : P s) :
    P t := by
  induction h with
  | refl => exact hs
  | step _ k ih => exact hP _ _ k ih

theorem Moves.foldl {α : Type} (l : List α) (f : State → α → State) (h : ∀ t x, Moves t (f t x)) (s : State) :
    Moves s (l.foldl f s) := by
  induction l generalizing s with
  | nil => exact .refl s
  | cons x l ih => exact (h s x).trans (ih _)

/-- A change of nothing that is tracked. -/
theorem Moves.other {s t : State} (entries : t.entries = s.entries) (lru : t.lru = s.lru) (chunks : t.chunks = s.chunks)
    (queue : t.queue = s.queue) (update : t.update = s.update) : Moves s t :=
  (Move.other entries lru chunks queue update).moves

theorem setPort_moves (s : State) (p : Port) (v : PortState) : Moves s (s.setPort p v) := .other rfl rfl rfl rfl rfl

theorem setEngine_moves (s : State) (c : Channel) (v : Engine) : Moves s (s.setEngine c v) := .other rfl rfl rfl rfl rfl

theorem setRead_moves (s : State) (p : Port) (r : Option OutstandingRead) : Moves s (s.setRead p r) := setPort_moves s p _

theorem answer_moves (s : State) (p : Port) (a : Answer) : Moves s (s.answer p a) := .other rfl rfl rfl rfl rfl

theorem answerError_moves (s : State) (p : Port) (reason : ErrorReason) (x : ImageAddress) :
    Moves s (s.answerError p reason x) := .other rfl rfl rfl rfl rfl

theorem raise_moves (s : State) (p : Port) (n : Notice) : Moves s (s.raise p n) := by
  unfold State.raise
  split
  · exact setPort_moves s p _
  · exact .refl s

theorem raiseAll_moves (s : State) (n : Notice) : Moves s (s.raiseAll n) :=
  Moves.foldl _ _ (fun t p => raise_moves t p n) s

theorem deactivate_moves (s : State) (a : Alarm) : Moves s (s.deactivate a) := .other rfl rfl rfl rfl rfl

/-! ### The read path -/

theorem Record.withWaiters_sameKind (r : Record) (w : PortSet) : SameKind r (r.withWaiters w) := by
  unfold Record.withWaiters
  split
  · rename_i f h
    exact ⟨rfl, by simp [Record.fill, h]⟩
  · exact .refl r

theorem forall₂_map {f : Record → Record} (h : ∀ r, SameKind r (f r)) (l : List Record) :
    List.Forall₂ SameKind l (l.map f) := by
  induction l with
  | nil => exact .nil
  | cons r l ih => exact .cons (h r) ih

theorem forall₂_refl (l : List Record) : List.Forall₂ SameKind l l := by
  induction l with
  | nil => exact .nil
  | cons r l ih => exact .cons (.refl r) ih

theorem forall₂_modify {f : Record → Record} (h : ∀ r, SameKind r (f r)) (l : List Record) (i : Nat) :
    List.Forall₂ SameKind l (l.modify i f) := by
  induction l generalizing i with
  | nil => simp
  | cons r l ih =>
    cases i with
    | zero => exact .cons (h r) (forall₂_refl l)
    | succ i => exact .cons (.refl r) (ih i)

theorem forall₂_set {l : List Record} {i : Nat} {r r' : Record} (hi : l[i]? = some r) (h : SameKind r r') :
    List.Forall₂ SameKind l (l.set i r') := by
  induction l generalizing i with
  | nil => simp at hi
  | cons x l ih =>
    cases i with
    | zero =>
      simp only [List.getElem?_cons_zero, Option.some.injEq] at hi
      subst hi
      exact .cons h (forall₂_refl l)
    | succ i => exact .cons (.refl x) (ih (by simpa using hi))

theorem leaveRecords_moves (s : State) (p : Port) : Moves s (s.leaveRecords p) := by
  refine (Move.relabel (s := s) (t := s.leaveRecords p) rfl rfl rfl (forall₂_map (fun r => ?_) s.queue) rfl).moves
  split
  · exact ⟨(Record.withWaiters_sameKind r _).1, (Record.withWaiters_sameKind r _).2⟩
  · exact .refl r

theorem recomputeLevels_moves (s : State) (p : Port) : Moves s (s.recomputeLevels p) := by
  refine (Move.relabel (s := s) (t := s.recomputeLevels p) rfl rfl rfl (forall₂_map (fun r => ?_) s.queue) rfl).moves
  split
  · exact ⟨rfl, rfl⟩
  · exact .refl r

theorem join_moves (s : State) (p : Port) (i : Nat) : Moves s (s.join p i) := by
  refine (Move.relabel (s := s) (t := s.join p i) rfl rfl rfl (forall₂_modify (fun r => ?_) s.queue i) rfl).moves
  exact ⟨(Record.withWaiters_sameKind r _).1, (Record.withWaiters_sameKind r _).2⟩

theorem createDemandFill_moves (s : State) (p : Port) (e : Fin 16) (block c : Nat) (h : s.demandSlotBusy p = false) :
    Moves s (s.createDemandFill p e block c) :=
  (Move.demand s _ (by simp [Record.isDemandOf, Record.fill]) h).moves

theorem victim_eligible {s : State} {e : Fin 16} (h : s.victim = some e) : s.eligible e = true :=
  List.find?_some h

theorem allocate_moves (s : State) (e : Fin 16) (block : Nat) (he : s.eligible e = true) (hb : s.findBlock block = none) :
    Moves s (s.allocate e block) := (Move.assign s e block he hb).moves.step (.toMru _ e)

theorem missRead_moves (s : State) (p : Port) (x : Nat) (found : Option (Fin 16))
    (hf : found = none → s.findBlock (blockOf x) = none) : Moves s (s.missRead p x found).1 := by
  unfold State.missRead State.fillFor
  split
  · exact .refl s
  · split
    · split
      · exact join_moves s p _
      · split
        · exact .refl s
        · rename_i h
          exact createDemandFill_moves s p _ _ _ (by simpa using h)
    · split
      · exact .refl s
      · rename_i h
        split
        · rename_i e he
          exact (allocate_moves s e _ (victim_eligible he) (hf rfl)).trans
            (createDemandFill_moves _ p e _ _ (show s.demandSlotBusy p = false by simpa using h))
        · exact .refl s

theorem evalRead_moves (s : State) (p : Port) (x : ImageAddress) (n : Nat) : Moves s (s.evalRead p x n).1 := by
  unfold State.evalRead
  simp only
  split
  · exact .refl s
  split
  · exact .refl s
  split
  · exact .refl s
  split
  · split
    · exact (Move.toMru s _).moves
    · exact missRead_moves s p _ _ (by simp)
  · rename_i h
    exact missRead_moves s p _ _ (fun _ => h)

theorem takeRead_moves (s : State) (p : Port) (x : ImageAddress) (n : Nat) (d : Option Nat) :
    Moves s (s.takeRead p x n d) := by
  have h := evalRead_moves s p x n
  unfold State.takeRead
  split <;> rename_i t _ he <;> rw [he] at h
  · exact h.trans ((setRead_moves t p none).trans (answer_moves _ _ _))
  · exact h.trans ((setRead_moves t p none).trans (answerError_moves _ _ _ _))
  · exact h.trans (setRead_moves t p _)

theorem retake_moves (s : State) (p : Port) : Moves s (s.retake p) := by
  unfold State.retake
  split
  · exact takeRead_moves s p _ _ _
  · exact .refl s

theorem pass_moves (s : State) (which : PortSet) : Moves s (s.pass which) := by
  unfold State.pass
  refine Moves.foldl _ _ (fun t p => ?_) s
  split
  · exact retake_moves t p
  · exact .refl t

theorem answerLinkDown_moves (s : State) (p : Port) : Moves s (s.answerLinkDown p) := by
  unfold State.answerLinkDown
  split
  · exact (setRead_moves s p none).trans (answerError_moves _ _ _ _)
  · exact .refl s

theorem removeRecords_moves (s : State) (sel : Record → Bool) : Moves s (s.removeRecords sel) := (Move.shrink s sel).moves

theorem removeLinkDown_moves (s : State) (sel : Record → Bool) : Moves s (s.removeLinkDown sel) := by
  unfold State.removeLinkDown
  refine (removeRecords_moves s sel).trans (Moves.foldl _ _ (fun t p => ?_) _)
  split
  · exact answerLinkDown_moves t p
  · exact .refl t

theorem answerFromFill_moves (s : State) (f : Fill) (data : List Byte) (p : Port) :
    Moves s (s.answerFromFill f data p) := by
  unfold State.answerFromFill
  split
  · exact (setRead_moves s p none).trans (answer_moves _ _ _)
  · exact .refl s

theorem endDrain_moves (s : State) (e : Fin 16) : Moves s (s.endDrain e) := by
  unfold State.endDrain
  split
  · rename_i h
    exact (Move.drained s e h.1).moves
  · exact .refl s

theorem endDrains_moves (s : State) : Moves s s.endDrains := Moves.foldl _ _ endDrain_moves s

theorem removeAllHolds_moves (s : State) (p : Port) : Moves s (s.removeAllHolds p) :=
  Moves.foldl _ _ (fun t e => (Move.unhold t e p).moves) s

theorem moveToLruEnd_moves (s : State) (sel : Fin 16 → Bool) : Moves s (s.moveToLruEnd sel) := (Move.toLruEnd s sel).moves

/-! ### Preloads and drops -/

theorem clearOwner_moves (s : State) (p : Port) (e : Fin 16) : Moves s (s.clearOwner p e) := by
  unfold State.clearOwner
  split
  · exact (Move.edit s e { s.entry e with owner := none } rfl rfl rfl).moves
  · exact .refl s

theorem recordPreloadEnd_moves (s : State) (p : Port) (status : PreloadStatus) :
    Moves s (s.recordPreloadEnd p status) := by
  unfold State.recordPreloadEnd
  simp only
  split
  · exact setPort_moves s p _
  · exact (setPort_moves s p _).trans (raise_moves _ _ _)

theorem endPreload_moves (g : Ongoing) (p : Port) (status : PreloadStatus) : Moves g.hub (g.endPreload p status).hub := by
  unfold Ongoing.endPreload
  simp only
  split
  · exact (removeRecords_moves _ _).trans ((clearOwner_moves _ _ _).trans (recordPreloadEnd_moves _ _ _))
  · exact .refl _

theorem Ongoing.foldl_moves {α : Type} (l : List α) (f : Ongoing → α → Ongoing) (h : ∀ g x, Moves g.hub (f g x).hub)
    (g : Ongoing) : Moves g.hub (l.foldl f g).hub := by
  induction l generalizing g with
  | nil => exact .refl _
  | cons x l ih => exact (h g x).trans (ih _)

theorem endPreloadsLink_moves (g : Ongoing) (sel : State → Port → Bool) : Moves g.hub (g.endPreloadsLink sel).hub := by
  refine Ongoing.foldl_moves _ _ (fun h p => ?_) g
  split
  · exact endPreload_moves h p _
  · exact .refl _

theorem retakeHeld_moves (s : State) (state : ReadState) : Moves s (s.retakeHeld state) := pass_moves _ _

theorem retakeVictims_moves (g : Ongoing) (also : PortSet) : Moves g.hub (g.retakeVictims also).hub := pass_moves _ _

theorem retakeDue_moves (g : Ongoing) : Moves g.hub g.retakeDue.hub := by
  unfold Ongoing.retakeDue
  split
  · exact retakeVictims_moves g _
  · exact pass_moves _ _

theorem createPreloadFill_moves (s : State) (p : Port) (e : Fin 16) (block c : Nat) (h : s.preloadSlotBusy p = false) :
    Moves s (s.createPreloadFill p e block c) :=
  (Move.preload s _ (by simp [Record.isPreloadOf, Record.fill]) h).moves

theorem actCursor_moves (g : Ongoing) (p : Port) : Moves g.hub (g.actCursor p).hub := by
  unfold Ongoing.actCursor
  simp only
  split
  · split
    · exact endPreload_moves g p _
    · split
      · exact .refl _
      · rename_i h
        split
        · exact createPreloadFill_moves _ p _ _ _ (by simpa using h)
        · exact .refl _
  · exact .refl _

theorem actCursors_moves (g : Ongoing) : Moves g.hub g.actCursors.hub := Ongoing.foldl_moves _ _ actCursor_moves g

theorem endOwnedPreload_moves (g : Ongoing) (e : Fin 16) : Moves g.hub (g.endOwnedPreload e).hub := by
  unfold Ongoing.endOwnedPreload
  split
  · exact endPreload_moves g _ _
  · exact .refl _

theorem dropEntry_moves (g : Ongoing) (e : Fin 16) : Moves g.hub (g.dropEntry e).hub := by
  unfold Ongoing.dropEntry
  split
  · refine (removeRecords_moves g.hub _).trans ((endOwnedPreload_moves (g.removeForDrop e) e).step ?_)
    exact .clear _ e _ (by split <;> simp)
  · exact .refl _

theorem drop_moves (g : Ongoing) (sel : Fin 16 → Bool) : Moves g.hub (g.drop sel).hub := by
  refine Moves.trans (Ongoing.foldl_moves allEntries _ (fun h e => ?_) g) (moveToLruEnd_moves _ _)
  split
  · exact dropEntry_moves h e
  · exact .refl _

/-! ### Alarms, fences and the end of an event -/

theorem fence_moves (g : Ongoing) (p : Port) : Moves g.hub (g.fence p).hub := by
  unfold Ongoing.fence
  refine Moves.trans ?_ (endPreload_moves _ p .fenced)
  exact (setPort_moves _ p { g.hub.port p with fenced := true }).trans (raise_moves _ p .fenced)

theorem alarmPort_moves (a : Alarm) (g : Ongoing) (p : Port) : Moves g.hub (Ongoing.alarmPort a g p).hub := by
  have h : Moves g.hub (g.on (fun s =>
      (s.setPort p { s.port p with latched := (s.port p).latched ||| flag 5 a.id }).raise p .alarm)).hub :=
    (setPort_moves _ p _).trans (raise_moves _ p .alarm)
  unfold Ongoing.alarmPort
  simp only
  repeat' split
  · exact h.trans (fence_moves _ p)
  · exact h
  · exact .refl _

theorem activate_moves (g : Ongoing) (a : Alarm) : Moves g.hub (g.activate a).hub := by
  unfold Ongoing.activate
  split
  · exact .refl _
  · have h : Moves g.hub (g.on (fun s => { s with alarms := s.alarms ||| flag 5 a.id })).hub := .other rfl rfl rfl rfl rfl
    exact h.trans (Ongoing.foldl_moves _ _ (alarmPort_moves a) _)

theorem Record.serve_sameKind (r : Record) (c : Channel) : SameKind r (r.serve c) := by
  unfold Record.serve
  split <;> rename_i h <;> exact ⟨rfl, by simp [Record.fill, h]⟩

theorem openRecord_moves (s : State) (c : Channel) (r : Record) : Moves s (s.openRecord c r) := by
  unfold State.openRecord
  split <;> exact .other rfl rfl rfl rfl rfl

theorem serve_moves (s : State) (c : Channel) (r : Record) (i : Nat) (hi : s.queue[i]? = some r) :
    Moves s (s.serve c r i) := by
  unfold State.serve
  refine Moves.trans ?_ (openRecord_moves _ c r)
  exact (Move.relabel (s := s)
    (t := { s with queue := s.queue.set i (r.serve c) }.setEngine c { s.engine c with state := .active })
    rfl rfl rfl (forall₂_set hi (Record.serve_sameKind r c)) rfl).moves

/-- The highest-ranked of some records is one of them. -/
theorem highestRanked_mem {rs : List (Record × Nat)} {x : Record × Nat} (h : highestRanked rs = some x) : x ∈ rs := by
  have key : ∀ (l : List (Record × Nat)) (b : Option (Record × Nat)), l.foldl (fun best x =>
      match best with
      | none => some x
      | some y => if x.1.ranksAbove y.1 then some x else some y) b = some x → x ∈ l ∨ b = some x := by
    intro l
    induction l with
    | nil => intro b hb; exact Or.inr hb
    | cons y l ih =>
      intro b hb
      rcases ih _ hb with hm | hm
      · exact Or.inl (List.mem_cons_of_mem _ hm)
      · cases b with
        | none => exact Or.inl (by simp at hm; simp [hm])
        | some z =>
          simp only at hm
          split at hm
          · exact Or.inl (by simp at hm; simp [hm])
          · exact Or.inr hm
  rcases key rs none h with h | h
  · exact h
  · cases h

theorem dispatchOne_moves (s : State) : Moves s s.dispatchOne := by
  unfold State.dispatchOne
  split
  · rename_i r i h
    have hm := List.mem_of_mem_filter (highestRanked_mem h)
    exact serve_moves s _ r i ((List.mem_zipIdx_iff_getElem?).1 hm)
  · exact .refl s

theorem dispatch_moves (s : State) : Moves s s.dispatch := (dispatchOne_moves s).trans (dispatchOne_moves _)

theorem stopEngine_moves (s : State) (c : Channel) : Moves s (s.stopEngine c) := by
  unfold State.stopEngine
  simp only
  repeat' split
  all_goals exact .other rfl rfl rfl rfl rfl

theorem completeStop_moves (s : State) : Moves s s.completeStop := by
  unfold State.completeStop
  simp only
  split
  · exact ((stopEngine_moves s .a).trans (stopEngine_moves _ .b)).trans (.other rfl rfl rfl rfl rfl)
  · exact .refl s

theorem settle_moves (g : Ongoing) : Moves g.hub g.settle := by
  unfold Ongoing.settle
  exact ((retakeDue_moves g).trans ((actCursors_moves _).trans (retakeDue_moves _))).trans
    ((dispatch_moves _).trans (completeStop_moves _))

end Sys2Proof.Machine
end

