-- ==== Sys2Proof/Laws/Events.lean ====
section
/-! SUPPORT. Every command as a run of moves: what an event can do to the directory, the buffers, the queue and the update
operation. The end of hub reset is such a run from the reset values. -/

namespace Sys2Proof.Machine

/-! ### Timers and the grant -/

theorem reachMoment_moves (s : State) (m : Nat) : Moves s (s.reachMoment m) := .other rfl rfl rfl rfl rfl

theorem quiet_moves (s : State) : Moves s s.quiet := .other rfl rfl rfl rfl rfl

theorem setResult_moves (s : State) (p : Port) (code : ResultCode) (source : Byte) :
    Moves s (s.setResult p code source) := setPort_moves s p _

theorem restartGrantTimer_moves (s : State) : Moves s s.restartGrantTimer := by
  unfold State.restartGrantTimer
  split
  · rename_i h
    simp only [Bool.and_eq_true, Bool.not_eq_true', Option.isNone_iff_eq_none] at h
    exact (Move.timer s _ (Or.inr ⟨h.1.1, h.1.2, h.2⟩)).moves
  · exact .refl s

theorem touchGrant_moves (s : State) (p : Port) : Moves s (s.touchGrant p) := by
  unfold State.touchGrant
  split
  · exact restartGrantTimer_moves s
  · exact .refl s

theorem closeStaging_moves (s : State) : Moves s s.closeStaging := (Move.closePage s).moves

/-! ### Runs of an event in progress -/

theorem Moves.after_on {s : State} {g : Ongoing} {f : State → State} (h : Moves s g.hub) (k : ∀ t, Moves t (f t)) :
    Moves s (g.on f).hub := h.trans (k g.hub)

theorem Moves.started (s : State) : Moves s (Ongoing.start s).hub := .refl s

theorem link_moves (s : State) (v : LinkController) : Moves s { s with link := v } := .other rfl rfl rfl rfl rfl

theorem Moves.after_settle {s : State} {g : Ongoing} (h : Moves s g.hub) : Moves s g.settle := h.trans (settle_moves g)

theorem Moves.after_activate {s : State} {g : Ongoing} (h : Moves s g.hub) (a : Alarm) : Moves s (g.activate a).hub :=
  h.trans (activate_moves g a)

theorem Moves.after_oweVictims {s : State} {g : Ongoing} (h : Moves s g.hub) : Moves s g.oweVictims.hub := h

theorem Moves.after_endPreload {s : State} {g : Ongoing} (h : Moves s g.hub) (p : Port) (status : PreloadStatus) :
    Moves s (g.endPreload p status).hub := h.trans (endPreload_moves g p status)

theorem Moves.after_endPreloadsLink {s : State} {g : Ongoing} (h : Moves s g.hub) (sel : State → Port → Bool) :
    Moves s (g.endPreloadsLink sel).hub := h.trans (endPreloadsLink_moves g sel)

theorem Moves.after_retakeHeld {s : State} {g : Ongoing} (h : Moves s g.hub) (state : ReadState) :
    Moves s (g.on (fun t => t.retakeHeld state)).hub := h.trans (retakeHeld_moves g.hub state)

theorem Moves.after_retakeVictims {s : State} {g : Ongoing} (h : Moves s g.hub) (also : PortSet) :
    Moves s (g.retakeVictims also).hub := h.trans (retakeVictims_moves g also)

theorem Moves.after_retakeDue {s : State} {g : Ongoing} (h : Moves s g.hub) : Moves s g.retakeDue.hub :=
  h.trans (retakeDue_moves g)

theorem Moves.after_actCursors {s : State} {g : Ongoing} (h : Moves s g.hub) : Moves s g.actCursors.hub :=
  h.trans (actCursors_moves g)

theorem Moves.after_drop {s : State} {g : Ongoing} (h : Moves s g.hub) (sel : Fin 16 → Bool) :
    Moves s (g.drop sel).hub := h.trans (drop_moves g sel)

/-! ### The update operation -/

theorem publish_queueOperation_moves (s : State) (op : UpdateOp) (h : s.update.op = none) (hh : s.update.holder.isSome) :
    Moves s ((s.publish op).clearTarget.queueOperation op) := by
  have hport : ∀ (t : State) (q : Port), (t.holdForUpdate q) = t.setPort q { t.port q with
      read := (t.port q).read.map (fun r => { r with state := .heldUpdate }) } := fun _ _ => rfl
  have key : ∀ (sel : Port → Bool) (l : List Port) (t : State),
      ∃ v, l.foldl (fun t p => if sel p then t.holdForUpdate p else t) t = { t with ports := v } := by
    intro sel l
    induction l with
    | nil => intro t; exact ⟨t.ports, rfl⟩
    | cons p l ih =>
      intro t
      simp only [List.foldl_cons]
      by_cases hp : sel p = true
      · rw [if_pos hp]
        obtain ⟨v, hv⟩ := ih (t.holdForUpdate p)
        exact ⟨v, hv⟩
      · rw [if_neg hp]
        exact ih t
  unfold State.clearTarget
  obtain ⟨v, hv⟩ := key ((waitersOf ((s.publish op).queue.filter (s.publish op).pendingInTarget)).get) allPorts
    ((s.publish op).removeRecords (s.publish op).pendingInTarget)
  rw [hv]
  refine (((removeRecords_moves s (s.publish op).pendingInTarget).trans
    (Moves.other (s := s.removeRecords (s.publish op).pendingInTarget)
      (t := { s.removeRecords (s.publish op).pendingInTarget with ports := v }) rfl rfl rfl rfl rfl))).step ?_
  exact Move.accept { s.removeRecords (s.publish op).pendingInTarget with ports := v } op _ h hh rfl

theorem accept_moves (s : State) (op : UpdateOp) (h : s.update.op = none) (hh : s.update.holder.isSome) :
    Moves s (s.accept op) := by
  unfold State.accept
  simp only
  exact Moves.after_settle (publish_queueOperation_moves s op h hh)

theorem storeChunks_moves (s : State) (e : Fin 16) (first count : Nat) (data : List Byte) :
    Moves s (s.storeChunks e first count data) :=
  (Move.store s (slotAddress e (first * Config.chunkBytes)) data).moves.step
    (Move.edit _ e { s.entry e with valid := (s.entry e).valid ||| chunkMask first count } rfl rfl rfl)

theorem applyPageResult_moves (s : State) (page : Nat) (r : PageResult) : Moves s (s.applyPageResult page r) := by
  unfold State.applyPageResult
  split
  · exact .refl s
  · rename_i e _
    split
    · exact storeChunks_moves s _ _ _ _
    · exact (Move.edit s e { s.entry e with
        valid := (s.entry e).valid &&& ~~~(chunkMask (pageFirstChunk page) 8) } rfl rfl rfl).moves
    · exact .refl s

theorem applyBlockResult_moves (s : State) (block : Nat) (r : BlockResult) : Moves s (s.applyBlockResult block r) := by
  unfold State.applyBlockResult
  split
  · exact .refl s
  · rename_i e _
    split
    · exact storeChunks_moves s _ _ _ _
    · exact (Move.edit s e { s.entry e with valid := 0 } rfl rfl rfl).moves.step (.toLruEnd _ _)
    · exact .refl s

theorem applyTargetResult_moves (s : State) (op : UpdateOp) (r : TargetResult) : Moves s (s.applyTargetResult op r) := by
  unfold State.applyTargetResult
  split
  all_goals first
    | exact applyPageResult_moves s _ _
    | exact applyBlockResult_moves s _ _

theorem writeUpdateResult_moves (s : State) (op : UpdateOp) (o : Overall) : Moves s (s.writeUpdateResult op o) :=
  (Move.result s _).moves

theorem withdraw_moves (s : State) (op : UpdateOp) (o : Overall) : Moves s (s.withdraw op o) := by
  unfold State.withdraw
  simp only
  split
  · exact (Move.withdraw s).moves.trans (closeStaging_moves _)
  · exact (Move.withdraw s).moves

theorem withdraw_op (s : State) (op : UpdateOp) (o : Overall) : (s.withdraw op o).update.op = none := by
  unfold State.withdraw
  simp only
  split <;> rfl

theorem concludeGrant_moves (s : State) (op : UpdateOp) (o : Overall) (h : s.update.op = none) :
    Moves s (s.concludeGrant op o) := by
  unfold State.concludeGrant
  split
  · exact (Move.release s h).moves
  · exact (restartGrantTimer_moves s).trans (raise_moves _ _ _)

theorem endOperation_moves (g : Ongoing) (op : UpdateOp) (o : Overall) (r : TargetResult) (d : Bool) :
    Moves g.hub (g.endOperation op o r d).hub := by
  have h1 : Moves g.hub (g.on (fun s => ((s.applyTargetResult op r).writeUpdateResult op o).withdraw op o)).hub :=
    (applyTargetResult_moves g.hub op r).trans ((writeUpdateResult_moves _ op o).trans (withdraw_moves _ op o))
  have hop : (g.on (fun s => ((s.applyTargetResult op r).writeUpdateResult op o).withdraw op o)).hub.update.op = none :=
    withdraw_op _ op o
  unfold Ongoing.endOperation
  generalize g.on (fun s => ((s.applyTargetResult op r).writeUpdateResult op o).withdraw op o) = h at h1 hop
  simp only
  split
  · have hl := (retakeVictims_local h (h.hub.heldIn .heldUpdate)).trans (actCursors_local _)
    exact (h1.after_retakeVictims _).after_actCursors.trans (concludeGrant_moves _ op o (by rw [hl.update]; exact hop))
  · have hl := (retakeHeld_local h.hub .heldUpdate).trans (actCursors_local (h.on fun s => s.retakeHeld .heldUpdate))
    exact (h1.after_retakeHeld _).after_actCursors.trans (concludeGrant_moves _ op o (by rw [hl.update]; exact hop))

theorem degrade_moves (g : Ongoing) (c : Channel) : Moves g.hub (g.degrade c).hub := by
  unfold Ongoing.degrade
  refine Moves.after_activate (Moves.after_on (.refl _) (fun t => ?_)) _
  simp only
  split <;> exact .other rfl rfl rfl rfl rfl

theorem phaseBoundary_moves (s : State) (op : UpdateOp) (data : List Byte) (h : s.update.op = some op) :
    Moves s (s.phaseBoundary op data) := by
  refine (Move.relabel (s := s) (t := { s with queue := (s.phaseBoundary op data).queue }) rfl rfl rfl
    (forall₂_map (fun r => ?_) s.queue) rfl).moves.step (Move.phase _ op (op.secondPhase data) h)
  split
  · exact ⟨rfl, rfl⟩
  · exact .refl r

theorem endPhase_moves (g : Ongoing) (c : Channel) (o : PhaseOutcome) (data : List Byte) :
    Moves g.hub (g.endPhase c o data).hub := by
  unfold Ongoing.endPhase
  simp only
  split
  · exact .refl _
  · rename_i op hop
    split
    · exact endOperation_moves g _ _ _ _
    · split
      · exact phaseBoundary_moves g.hub op data hop
      · exact (degrade_moves g _).trans (endOperation_moves _ _ _ _ _)
    · split
      · exact endOperation_moves g _ _ _ _
      · exact (degrade_moves g _).trans (endOperation_moves _ _ _ _ _)

/-! ### Faults, stops, bring-ups and takeovers -/

theorem answerFaulted_moves (g : Ongoing) (sel : Record → Bool) (q : List Record) :
    Moves g.hub (g.answerFaulted sel q).hub := by
  refine Moves.foldl _ _ (fun t p => ?_) g.hub
  split
  · exact answerLinkDown_moves t p
  · exact .refl t

theorem goDown_moves (g : Ongoing) : Moves g.hub g.goDown.hub := by
  unfold Ongoing.goDown
  refine Moves.after_oweVictims (Moves.after_endPreloadsLink (Moves.after_on (.refl _) (fun t => ?_)) _)
  exact (link_moves t { t.link with state := .down }).trans (removeLinkDown_moves _ _)

theorem loseChannel_moves (g : Ongoing) (c : Channel) : Moves g.hub (g.loseChannel c).hub := by
  unfold Ongoing.loseChannel
  exact Moves.after_oweVictims (Moves.after_endPreloadsLink (Moves.after_on (.refl _)
    (fun t => removeLinkDown_moves t _)) _)

theorem channelFault_moves (g : Ongoing) (c : Channel) (m : Option Mode) : Moves g.hub (g.channelFault c m).hub := by
  unfold Ongoing.channelFault
  split
  · exact .refl _
  · split
    · exact loseChannel_moves g c
    · exact goDown_moves g
  · exact goDown_moves g
  · exact goDown_moves g
  · exact .refl _

theorem startTransaction_moves (s : State) (c : Channel) (step : EngineStep) (kind : TransactionKind)
    (address : Option FlashAddress) (n : Nat) (sent : List Byte) :
    Moves s (s.startTransaction c step kind address n sent) := setEngine_moves s c _

theorem restEngine_moves (s : State) (c : Channel) (x : EngineState) : Moves s (s.restEngine c x) := setEngine_moves s c _

theorem wakeChannel_moves (s : State) (c : Channel) : Moves s (s.wakeChannel c) := by
  unfold State.wakeChannel
  simp only
  split
  · exact (setEngine_moves s c _).trans (startTransaction_moves _ _ _ _ _ _ _)
  · exact setEngine_moves s c _

theorem retireEngine_moves (s : State) (c : Channel) : Moves s (s.retireEngine c) := by
  unfold State.retireEngine
  split
  · exact restEngine_moves s c _
  · exact .refl s

theorem endBringup_moves (g : Ongoing) : Moves g.hub g.endBringup.hub := by
  unfold Ongoing.endBringup
  simp only
  generalize pairing _ _ _ _ = m
  have h1 : Moves g.hub (g.on (fun s => { s with link := { s.link with mode := m, imageSize := s.sizeOf m } })).hub :=
    Moves.after_on (.refl _) (fun t => link_moves t _)
  generalize g.on (fun s => { s with link := { s.link with mode := m, imageSize := s.sizeOf m } }) = g1 at h1
  have h2 : Moves g.hub
      (if g.hub.setup.configuredMode = .mirror ∧ m ≠ some .mirror then g1.activate .pairFault else g1).hub := by
    split
    · exact h1.after_activate _
    · exact h1
  generalize (if g.hub.setup.configuredMode = .mirror ∧ m ≠ some .mirror then g1.activate .pairFault else g1) = g2 at h2
  refine Moves.after_on (Moves.after_retakeHeld (Moves.after_on h2 (fun t => ?_)) _) (fun t => raiseAll_moves t _)
  exact ((retireEngine_moves t .a).trans (retireEngine_moves _ .b)).trans (link_moves _ _)

theorem checkBringup_moves (g : Ongoing) : Moves g.hub g.checkBringup.hub := by
  unfold Ongoing.checkBringup
  split
  · exact endBringup_moves g
  · exact .refl _

theorem Moves.after_checkBringup {s : State} {g : Ongoing} (h : Moves s g.hub) : Moves s g.checkBringup.hub :=
  h.trans (checkBringup_moves g)

theorem beginBringup_moves (g : Ongoing) : Moves g.hub g.beginBringup.hub := by
  unfold Ongoing.beginBringup
  simp only
  refine Moves.after_checkBringup (Moves.after_on ?_ (fun t => (wakeChannel_moves t .a).trans (wakeChannel_moves _ .b)))
  have h : Moves g.hub (g.on (fun s =>
      (({ s with link := { s.link with state := .bringup, mode := none, imageSize := 0, firstBringupDone := true } }
        ).deactivate .pairFault).deactivate .mirrorDegraded)).hub := by
    refine Moves.after_on (.refl _) (fun t => ?_)
    exact (link_moves t _).trans ((deactivate_moves _ _).trans (deactivate_moves _ _))
  split
  · exact h
  · exact Moves.after_retakeDue (Moves.after_on (h.after_drop _) (fun t => raiseAll_moves t _))

theorem Moves.after_beginBringup {s : State} {g : Ongoing} (h : Moves s g.hub) : Moves s g.beginBringup.hub :=
  h.trans (beginBringup_moves g)

theorem Moves.after_endOperation {s : State} {g : Ongoing} (h : Moves s g.hub) (op : UpdateOp) (o : Overall)
    (r : TargetResult) (d : Bool) : Moves s (g.endOperation op o r d).hub := h.trans (endOperation_moves g op o r d)

theorem stopLink_moves (s : State) : Moves s s.stopLink := by
  unfold State.stopLink
  simp only
  refine Moves.after_settle (Moves.after_oweVictims ?_)
  have h : Moves s (((Ongoing.start s).on (fun s =>
      { s with link := { s.link with state := .stopping } }.removeLinkDown
        (fun r => r.isPending && !r.isUpdateOp))).endPreloadsLink (fun _ _ => true)).hub := by
    refine Moves.after_endPreloadsLink (Moves.after_on (.started s) (fun t => ?_)) _
    exact (link_moves t { t.link with state := .stopping }).trans (removeLinkDown_moves _ _)
  generalize ((Ongoing.start s).on (fun s =>
      { s with link := { s.link with state := .stopping } }.removeLinkDown
        (fun r => r.isPending && !r.isUpdateOp))).endPreloadsLink (fun _ _ => true) = g at h
  repeat' split
  · exact h.after_endOperation _ _ _ _
  · exact h
  · exact h

theorem abandonEngine_moves (s : State) (c : Channel) : Moves s (s.abandonEngine c) := by
  unfold State.abandonEngine
  simp only
  split <;> exact .other rfl rfl rfl rfl rfl

theorem takeover_moves (g : Ongoing) : Moves g.hub g.takeover.hub := by
  unfold Ongoing.takeover
  simp only
  refine Moves.after_activate ?_ _
  have h1 : Moves g.hub (((g.on (fun s =>
      { (s.abandonEngine .a).abandonEngine .b with link := { ((s.abandonEngine .a).abandonEngine .b).link with
          state := .relinquished, takeAck := true, takeoverStopped := g.hub.link.state == .stopped } })).on
      (fun s => (s.removeLinkDown (fun _ => true)).endDrains)).endPreloadsLink (fun _ _ => true)).hub := by
    refine Moves.after_endPreloadsLink (Moves.after_on (Moves.after_on (.refl _) (fun t => ?_)) (fun t => ?_)) _
    · exact ((abandonEngine_moves t .a).trans (abandonEngine_moves _ .b)).trans (link_moves _ _)
    · exact (removeLinkDown_moves t _).trans (endDrains_moves _)
  generalize ((g.on (fun s =>
      { (s.abandonEngine .a).abandonEngine .b with link := { ((s.abandonEngine .a).abandonEngine .b).link with
          state := .relinquished, takeAck := true, takeoverStopped := g.hub.link.state == .stopped } })).on
      (fun s => (s.removeLinkDown (fun _ => true)).endDrains)).endPreloadsLink (fun _ _ => true) = h at h1
  cases g.hub.update.op.map g.hub.abandonedOp with
  | none =>
    simp only
    split
    · exact (h1.after_retakeVictims _).after_retakeHeld _
    · exact h1.after_retakeVictims _
  | some op =>
    simp only
    split
    · exact ((h1.after_endOperation _ _ _ _).after_retakeVictims _).after_retakeHeld _
    · exact (h1.after_endOperation _ _ _ _).after_retakeVictims _

theorem releaseTake_moves (g : Ongoing) : Moves g.hub g.releaseTake.hub := by
  unfold Ongoing.releaseTake
  have h : Moves g.hub (g.on (fun s =>
      { s with link := { s.link with takeAck := false } }.deactivate .linkTaken)).hub :=
    Moves.after_on (.refl _) (fun t => (link_moves t _).trans (deactivate_moves _ _))
  generalize g.on (fun s => { s with link := { s.link with takeAck := false } }.deactivate .linkTaken) = g1 at h
  simp only
  split
  · exact Moves.after_on (Moves.after_drop (Moves.after_on h (fun t => link_moves t _)) _) (fun t => raiseAll_moves t _)
  · exact h.after_beginBringup

/-! ### Attachment and the Shared Setup -/

theorem detachGrant_moves (s : State) (p : Port) : Moves s (s.detachGrant p) := by
  unfold State.detachGrant
  split
  · split
    · exact (Move.orphan s).moves
    · rename_i h
      exact (Move.release s (by simpa using h)).moves
  · exact .refl s

theorem detach_moves (g : Ongoing) (p : Port) : Moves g.hub (g.detach p).hub := by
  unfold Ongoing.detach
  refine Moves.after_oweVictims ?_
  have h : Moves g.hub (g.on (fun s =>
      (s.setPort p { s.port p with attached := false, read := none }).leaveRecords p)).hub :=
    Moves.after_on (.refl _) (fun t => (setPort_moves t p _).trans (leaveRecords_moves _ p))
  have h' := h.after_endPreload p .detached
  generalize (g.on (fun s =>
      (s.setPort p { s.port p with attached := false, read := none }).leaveRecords p)).endPreload p .detached = g1 at h'
  refine Moves.after_on h' (fun t => ?_)
  exact ((removeAllHolds_moves t p).trans (detachGrant_moves _ p)).trans (setPort_moves _ p _)

theorem followAttach_moves (s : State) (p : Port) : Moves s (s.followAttach p) := by
  unfold State.followAttach
  repeat' split
  · exact .refl s
  · exact Moves.after_settle (detach_moves (Ongoing.start s) p)
  · exact setPort_moves s p _
  · exact .refl s

theorem performSetupWrite_moves (s : State) (index : Fin 16) (w : Word) : Moves s (s.performSetupWrite index w) := by
  unfold State.performSetupWrite
  simp only
  have h : Moves s { s with setup := s.setup.write index w } := .other rfl rfl rfl rfl rfl
  generalize { s with setup := s.setup.write index w } = t at h
  split
  · exact (h.trans (recomputeLevels_moves _ _)).trans (followAttach_moves _ _)
  · exact h

/-! ### Commands -/

theorem allocate_lockedCount (s : State) (e : Fin 16) (block : Nat) :
    (s.allocate e block).lockedCount ≤ s.lockedCount := by
  unfold State.lockedCount
  refine List.countP_mono_left (fun x _ hx => ?_)
  have hxe : (s.allocate e block).entry x = if x = e then
      { state := .live, tag := some block, valid := 0, holders := .empty, owner := none } else s.entry x := by
    change (s.setEntry e _).entry x = _
    rw [setEntry_entry]
  rw [hxe] at hx
  split at hx
  · exact absurd hx (show ¬ (PortSet.empty.nonempty = true) by decide)
  · exact hx

theorem Entry.locked_of_holder {x : Entry} {p : Port} (h : x.holders.get p = true) : x.locked = true :=
  List.any_eq_true.2 ⟨p, mem_allPorts p, h⟩

theorem lock_moves (s : State) (p : Port) (block : Nat) : Moves s (s.lock p block).1 := by
  unfold State.lock
  split
  · exact .refl s
  split
  · exact .refl s
  split
  · rename_i e _
    repeat' split
    · exact (Move.toMru s e).moves
    · exact .refl s
    · rename_i h
      exact (Move.hold s e p (Or.inl h)).moves.step (.toMru _ e)
    · exact .refl s
    · rename_i h
      exact (Move.hold s e p (Or.inr (by simpa [State.lockedFull] using h))).moves.step (.toMru _ e)
  · rename_i hb
    repeat' split
    · exact .refl s
    · exact .refl s
    · exact .refl s
    · rename_i h _ e he
      have hlt : s.lockedCount < Config.globalLimit := by simpa [State.lockedFull] using h
      exact (allocate_moves s e block (victim_eligible he) hb).step
        (Move.hold _ e p (Or.inr (lt_of_le_of_lt (allocate_lockedCount s e block) hlt)))

theorem afterUnlock_moves {s before after : State} (h : Moves s after) : Moves s (State.afterUnlock before after) := by
  unfold State.afterUnlock
  split
  · exact Moves.after_settle (Moves.after_oweVictims h)
  · exact h

theorem unlock_moves (s : State) (p : Port) (block : Nat) : Moves s (s.unlock p block).1 := by
  unfold State.unlock
  repeat' split
  · exact .refl s
  · exact .refl s
  · exact afterUnlock_moves (Move.unhold s _ p).moves

/-- The checks on the hold that a PRELOAD with the lock flag takes leave room below the global limit (R72). -/
theorem entryForBlock_moves {s t : State} {p : Port} {block : Nat} {lockFlag : Bool} {e : Fin 16}
    (hr : s.preloadRefusal p block lockFlag = none) (he : s.entryForBlock block = some (t, e)) :
    Moves s t ∧ (lockFlag = true → (t.entry e).locked = true ∨ t.lockedCount < Config.globalLimit) := by
  unfold State.preloadRefusal at hr
  simp only at hr
  split at hr <;> try cases hr
  split at hr <;> try cases hr
  split at hr <;> try cases hr
  split at hr <;> try cases hr
  split at hr <;> try cases hr
  split at hr <;> try cases hr
  split at hr <;> try cases hr
  split at hr <;> try cases hr
  rename_i hfull
  unfold State.entryForBlock at he
  split at he
  · rename_i e' hb
    cases he
    refine ⟨.refl s, fun hl => ?_⟩
    by_cases hk : (s.entry e).locked = true
    · exact Or.inl hk
    · refine Or.inr ?_
      have hh : (s.entry e).holders.get p = false := by
        by_contra hne
        exact hk (Entry.locked_of_holder (by simpa using hne))
      simpa [State.lockedFull, State.heldEntry, hb, hh, hl, hk] using hfull
  · rename_i hb
    cases hv : s.victim with
    | none => simp [hv] at he
    | some v =>
      simp only [hv, Option.map_some, Option.some.injEq, Prod.mk.injEq] at he
      obtain ⟨rfl, rfl⟩ := he
      refine ⟨allocate_moves s v block (victim_eligible hv) hb, fun hl => Or.inr ?_⟩
      refine lt_of_le_of_lt (allocate_lockedCount s v block) ?_
      simpa [State.lockedFull, State.heldEntry, hb, hl] using hfull

theorem startPreload_moves (s : State) (p : Port) (e : Fin 16) (block : Nat) (lockFlag : Bool)
    (h : lockFlag = true → (s.entry e).locked = true ∨ s.lockedCount < Config.globalLimit) :
    Moves s (s.startPreload p e block lockFlag) := by
  unfold State.startPreload
  simp only
  have h1 : Moves s (if lockFlag = true then s.addHolder e p else s) := by
    split
    · rename_i hl
      exact (Move.hold s e p (h hl)).moves
    · exact .refl s
  generalize (if lockFlag = true then s.addHolder e p else s) = t at h1
  exact ((h1.step (Move.edit t e { t.entry e with owner := some p } rfl rfl rfl)).step (.toMru _ e)).trans
    (setPort_moves _ p _)

theorem preload_moves (s : State) (p : Port) (block : Nat) (lockFlag : Bool) : Moves s (s.preload p block lockFlag).1 := by
  unfold State.preload
  split
  · exact .refl s
  · rename_i hr
    split
    · rename_i t e he
      obtain ⟨hm, hl⟩ := entryForBlock_moves hr he
      have h := hm.trans (startPreload_moves t p e block lockFlag hl)
      generalize t.startPreload p e block lockFlag = u at h
      change Moves s (Ongoing.start u).settle
      exact Moves.after_settle (g := .start u) h
    · exact .refl s

theorem dirPick_moves (s : State) (p : Port) (v : Snapshot) : Moves s (s.setPort p { s.port p with snapshot := v }) :=
  setPort_moves s p _

theorem updateRefusal_none {s : State} {p : Port} (h : s.updateRefusal p = none) :
    s.isHolder p = true ∧ s.update.op = none ∧ (s.port p).fenced = false := by
  unfold State.updateRefusal at h
  split at h <;> try cases h
  split at h <;> try cases h
  split at h <;> try cases h
  rename_i h1 h2 h3
  exact ⟨by simpa using h1, by simpa using h2, by simpa using h3⟩

theorem dropRefusal_none {s : State} {p : Port} (h : s.dropRefusal p = none) :
    s.isHolder p = true ∧ s.update.op = none := by
  unfold State.dropRefusal at h
  split at h <;> try cases h
  split at h <;> try cases h
  rename_i h1 h2
  exact ⟨by simpa using h1, by simpa using h2⟩

theorem isHolder_iff {s : State} {p : Port} :
    s.isHolder p = true ↔ s.update.holder = some p ∧ s.update.orphaned = false := by
  simp [State.isHolder]

theorem isHolder_isSome {s : State} {p : Port} (h : s.isHolder p = true) : s.update.holder.isSome := by
  rw [(isHolder_iff.1 h).1]; rfl

theorem program_moves (s : State) (p : Port) : Moves s (s.program p).1 := by
  unfold State.program
  split
  · exact .refl s
  · rename_i h
    obtain ⟨hh, hop, _⟩ := updateRefusal_none h
    have ha := fun op => accept_moves s op hop (isHolder_isSome hh)
    split
    · exact .refl s
    · split
      · exact .refl s
      · split
        · exact .refl s
        · split
          · exact .refl s
          · exact ha _

theorem erase_moves (s : State) (p : Port) (block : Nat) : Moves s (s.erase p block).1 := by
  unfold State.erase
  split
  · exact .refl s
  · rename_i h
    obtain ⟨hh, hop, _⟩ := updateRefusal_none h
    have ha := fun op => accept_moves s op hop (isHolder_isSome hh)
    split
    · exact .refl s
    · split
      · exact .refl s
      · exact ha _

theorem raiseLostLocks_moves (s before : State) : Moves s (s.raiseLostLocks before) := by
  unfold State.raiseLostLocks
  refine Moves.foldl _ _ (fun t p => ?_) s
  split
  · exact raise_moves t p _
  · exact .refl t

theorem dropUnlocked_moves (s : State) : Moves s ((Ongoing.start s).drop s.droppedUnlocked).settle := by
  have h := drop_moves (.start s) s.droppedUnlocked
  generalize (Ongoing.start s).drop s.droppedUnlocked = g at h
  exact Moves.after_settle h

theorem dropAll_moves (s : State) :
    Moves s (((Ongoing.start s).drop (fun _ => true)).on (fun t => t.raiseLostLocks s)).settle := by
  have h := drop_moves (.start s) (fun _ => true)
  generalize (Ongoing.start s).drop (fun _ => true) = g at h
  exact Moves.after_settle (h.trans (raiseLostLocks_moves g.hub s))

/-! ### The events of the engines -/

theorem storeFill_moves (s : State) (f : Fill) (data : List Byte) : Moves s (s.storeFill f data) := by
  unfold State.storeFill
  split
  · exact storeChunks_moves s _ _ _ _
  · exact .refl s

theorem answerWaiters_moves (s : State) (f : Fill) (data : List Byte) : Moves s (s.answerWaiters f data) := by
  unfold State.answerWaiters
  refine Moves.foldl _ _ (fun t p => ?_) s
  split
  · exact answerFromFill_moves t f data p
  · exact .refl t

theorem completeFill_moves (s : State) (c : Channel) (r : Record) (f : Fill) (data : List Byte) :
    Moves s (s.completeFill c r f data) := by
  have h : Moves s (((((s.storeFill f data).answerWaiters f data).removeRecords
      (fun x => x.state == .inService c)).endDrain f.entry).restEngine c .idle) :=
    ((((storeFill_moves s f data).trans (answerWaiters_moves _ f data)).trans (removeRecords_moves _ _)).trans
      (endDrain_moves _ _)).trans (restEngine_moves _ _ _)
  unfold State.completeFill
  generalize ((((s.storeFill f data).answerWaiters f data).removeRecords
      (fun x => x.state == .inService c)).endDrain f.entry).restEngine c .idle = t at h
  exact Moves.after_settle (g := { Ongoing.start t with victims := becameEligible s t || t.readIn r.origin .heldVictim }) h

theorem startIdent_moves (s : State) (c : Channel) : Moves s (s.startIdent c) :=
  (setEngine_moves s c _).trans (startTransaction_moves _ _ _ _ _ _ _)

theorem judgeIdentity_moves (g : Ongoing) (c : Channel) (maker typeCode capacity : Byte) :
    Moves g.hub (g.judgeIdentity c maker typeCode capacity).hub := by
  unfold Ongoing.judgeIdentity
  split
  · exact Moves.after_activate (Moves.after_on (.refl _) (fun t => setEngine_moves t c _)) _
  · exact Moves.after_on (.refl _) (fun t => setEngine_moves t c _)

theorem busyClear_moves (s : State) (c : Channel) (op : UpdateOp) (failFlag : Bool) :
    Moves s (s.busyClear c op failFlag) := by
  unfold State.busyClear
  split
  · exact (setEngine_moves s c _).trans (startTransaction_moves _ _ _ _ _ _ _)
  · have h := restEngine_moves s c .idle
    generalize s.restEngine c .idle = t at h
    exact Moves.after_settle (h.trans (endPhase_moves (.start t) c _ _))

theorem timeOut_moves (s : State) (c : Channel) : Moves s (s.timeOut c) := by
  unfold State.timeOut
  simp only
  refine Moves.after_settle ?_
  have h : Moves s ((Ongoing.start s).on (fun s =>
      s.setEngine c { (s.engine c).restIn .fault with faultReason := .timeout })).hub :=
    Moves.after_on (.started s) (fun t => setEngine_moves t c _)
  generalize (Ongoing.start s).on (fun s =>
      s.setEngine c { (s.engine c).restIn .fault with faultReason := .timeout }) = g at h
  have h2 := ((h.after_activate (channelAlarm c)).trans (answerFaulted_moves _
    (fun r => s.link.state == .opened && s.faultRemoves c s.link.mode r) s.queue)).trans (endPhase_moves _ c .timeout [])
  generalize ((g.activate (channelAlarm c)).answerFaulted
    (fun r => s.link.state == .opened && s.faultRemoves c s.link.mode r) s.queue).endPhase c .timeout [] = g2 at h2
  split
  · exact h2.trans (channelFault_moves _ _ _)
  · exact h2

/-! ### Every command -/

theorem command_moves {offset : Byte} {p : Port} {effect : State → State × ResultCode} {s t : State}
    (h : ∀ s, Moves s (effect s).1) (ht : command offset p effect s = .next t) : Moves s t := by
  unfold command at ht
  simp only [Host.Outcome.next.injEq] at ht
  subst ht
  split
  · exact (((quiet_moves s).trans (h _)).trans (setResult_moves _ _ _ _)).trans
      ((touchGrant_moves _ _).trans (answer_moves _ _ _))
  · exact quiet_moves s

theorem registerWrite_moves {p : Port} {effect : PortState → PortState} {s t : State}
    (ht : registerWrite p effect s = .next t) : Moves s t := by
  unfold registerWrite at ht
  simp only [Host.Outcome.next.injEq] at ht
  subst ht
  split
  · exact ((quiet_moves s).trans (setPort_moves _ _ _)).trans (answer_moves _ _ _)
  · exact quiet_moves s

theorem hubEvent_moves {effect : State → State} {s t : State} (h : ∀ s, Moves s (effect s))
    (ht : hubEvent effect s = .next t) : Moves s t := by
  unfold hubEvent at ht
  simp only [Host.Outcome.next.injEq] at ht
  subst ht
  split
  · exact quiet_moves s
  · exact (quiet_moves s).trans (h _)

theorem followAttachOn_moves {s : State} {p : Port} {v : PortState} : Moves s ((s.quiet.setPort p v).followAttach p) :=
  ((quiet_moves s).trans (setPort_moves _ p v)).trans (followAttach_moves _ p)

theorem execImageRead_moves {p : Port} {x : ImageAddress} {n : Nat} {s t : State}
    (h : execImageRead p x n s = .next t) : Moves s t := by
  unfold execImageRead at h
  simp only [Host.Outcome.next.injEq] at h
  subst h
  split
  · split
    · exact ((quiet_moves s).trans (takeRead_moves _ _ _ _ _)).trans (dispatch_moves _)
    · exact (quiet_moves s).trans (answerError_moves _ _ _ _)
  · exact quiet_moves s

/-- R130 check 4: only a single access of 1, 2 or 4 bytes, aligned to its size, passes. -/
theorem writeAligned_iff (x : Nat) (accesses : List (List Byte)) :
    writeAligned x accesses = true ↔ ∃ bytes, accesses = [bytes] ∧
      (bytes.length = 1 ∨ (bytes.length = 2 ∧ x % 2 = 0) ∨ (bytes.length = 4 ∧ x % 4 = 0)) := by
  unfold writeAligned
  split
  · simp [or_assoc]
  · rename_i h
    simp only [Bool.false_eq_true, false_iff, not_exists, not_and]
    exact fun bytes he => absurd he (h bytes)

theorem writeRefusal_none {s : State} {p : Port} {x : Nat} {accesses : List (List Byte)}
    (h : s.writeRefusal p x accesses = none) :
    s.isHolder p = true ∧ s.update.op = none ∧ ∃ page, s.update.stagedPage = some page ∧
      page ≤ x ∧ x < page + Config.pageBytes := by
  unfold State.writeRefusal at h
  split at h <;> try cases h
  split at h <;> try cases h
  split at h <;> try cases h
  split at h <;> try cases h
  split at h <;> try cases h
  rename_i h1 _ page hp h2 h3 h4
  simp only [Bool.not_eq_true', Bool.not_eq_false, Bool.and_eq_true, decide_eq_true_eq] at h3
  exact ⟨by simpa using h1, by simpa using h4, page, hp, h3.1, h3.2⟩

theorem stageBytes_moves (s : State) (x : Nat) (bytes : List Byte) : Moves s (s.stageBytes x bytes) :=
  (Move.stage s _ bytes _).moves

theorem execImageWrite_moves {p : Port} {x : ImageAddress} {accesses : List (List Byte)} {s t : State}
    (h : execImageWrite p x accesses s = .next t) : Moves s t := by
  unfold execImageWrite at h
  simp only [Host.Outcome.next.injEq] at h
  subst h
  split
  · refine Moves.trans ?_ (touchGrant_moves _ p)
    split
    · exact (quiet_moves s).trans (answerError_moves _ _ _ _)
    · exact ((quiet_moves s).trans (stageBytes_moves _ _ _)).trans (answer_moves _ _ _)
  · exact quiet_moves s

theorem execReadDeadline_moves {p : Port} {s t : State} (h : execReadDeadline p s = .next t) : Moves s t := by
  refine hubEvent_moves (fun s => ?_) h
  repeat' split
  · exact (((reachMoment_moves s _).trans (setRead_moves _ p none)).trans (leaveRecords_moves _ p)).trans
      (answer_moves _ _ _)
  · exact .refl s
  · exact .refl s

theorem execSharedSetupWrite_moves {p : Port} {index : Fin 16} {w : Word} {s t : State}
    (h : execSharedSetupWrite p index w s = .next t) : Moves s t := by
  unfold execSharedSetupWrite at h
  simp only [Host.Outcome.next.injEq] at h
  subst h
  split
  · refine Moves.trans ?_ (answer_moves _ _ _)
    split
    · exact ((quiet_moves s).trans (setResult_moves _ _ _ _)).trans (touchGrant_moves _ p)
    · exact (((quiet_moves s).trans (setResult_moves _ _ _ _)).trans (performSetupWrite_moves _ _ _)).trans
        (touchGrant_moves _ p)
  · exact quiet_moves s

theorem execPortEnChange_moves {p : Port} {high : Bool} {s t : State} (h : execPortEnChange p high s = .next t) :
    Moves s t := by
  unfold execPortEnChange at h
  simp only [Host.Outcome.next.injEq] at h
  subst h
  split
  · exact (quiet_moves s).trans (setPort_moves _ _ _)
  · exact followAttachOn_moves

theorem execTakeAssert_moves {s t : State} (h : execTakeAssert s = .next t) : Moves s t := by
  unfold execTakeAssert at h
  simp only [Host.Outcome.next.injEq] at h
  subst h
  have k := (quiet_moves s).trans (link_moves s.quiet { s.link with takeLine := true })
  split
  · exact k
  · exact Moves.after_settle (Moves.trans k (takeover_moves (.start _)))

theorem execTakeRelease_moves {s t : State} (h : execTakeRelease s = .next t) : Moves s t := by
  unfold execTakeRelease at h
  simp only [Host.Outcome.next.injEq] at h
  subst h
  have k := (quiet_moves s).trans (link_moves s.quiet { s.link with takeLine := false })
  split
  · exact k
  · exact Moves.after_settle (Moves.trans k (releaseTake_moves (.start _)))

theorem assertReset_moves (s : State) : Moves s s.assertReset := by
  unfold State.assertReset
  simp only
  refine Moves.trans ?_ (link_moves _ _)
  refine Moves.trans ?_ ((restEngine_moves _ _ _).trans (restEngine_moves _ _ _))
  refine Moves.trans ?_ (Moves.foldl _ _ (fun t p => setRead_moves t p none) _)
  exact (Moves.other (s := s) (t := { s with inReset := true }) rfl rfl rfl rfl rfl).trans
    (Moves.trans (removeRecords_moves { s with inReset := true } (fun _ => true))
      (.other rfl rfl rfl (by simp [State.removeRecords]) rfl))

theorem endReset_moves (s : State) (straps : BitVec 2) : Moves (s.resetValues straps) (s.endReset straps) := by
  unfold State.endReset
  simp only
  refine Moves.after_settle ?_
  have h : Moves (s.resetValues straps) (if straps = 3 then Ongoing.start (s.resetValues straps)
      else (Ongoing.start (s.resetValues straps)).beginBringup).hub := by
    split
    · exact .started _
    · exact Moves.after_beginBringup (.started _)
  split
  · exact h.trans (takeover_moves _)
  · exact h

/-- Every command but the end of hub reset is a run of moves from the state before it; the end of hub reset is one from the
reset values. -/
theorem exec_moves {i : Instr} {s t : State} (h : exec i s = .next t) :
    Moves s t ∨ ∃ straps, i = .hubResetEnd straps ∧ Moves (s.resetValues straps) t := by
  cases i with
  | hubResetEnd straps =>
    refine Or.inr ⟨straps, rfl, ?_⟩
    simp only [exec, execHubResetEnd, Host.Outcome.next.injEq] at h
    subst h
    exact endReset_moves s straps
  | imageRead p x n => exact Or.inl (execImageRead_moves h)
  | imageWrite p x accesses => exact Or.inl (execImageWrite_moves h)
  | lock p w =>
    simp only [exec, execLock] at h
    refine Or.inl (command_moves (fun s => ?_) h)
    exact lock_moves s p _
  | unlock p w =>
    simp only [exec, execUnlock] at h
    refine Or.inl (command_moves (fun s => ?_) h)
    exact unlock_moves s p _
  | unlockAll p w =>
    simp only [exec, execUnlockAll] at h
    refine Or.inl (command_moves (fun s => ?_) h)
    exact afterUnlock_moves (removeAllHolds_moves s p)
  | preload p w =>
    simp only [exec, execPreload] at h
    refine Or.inl (command_moves (fun s => ?_) h)
    exact preload_moves s p _ _
  | preloadCancel p w =>
    simp only [exec, execPreloadCancel] at h
    refine Or.inl (command_moves (fun s => ?_) h)
    split
    · dsimp only
      exact Moves.after_settle (Moves.after_endPreload (.started s) p .cancelled)
    · exact .refl s
  | claim p w =>
    simp only [exec, execClaim] at h
    refine Or.inl (command_moves (fun s => ?_) h)
    repeat' split
    · rename_i hn
      exact (Move.claim s p hn).moves
    · exact .refl s
    · exact .refl s
  | release p w =>
    simp only [exec, execRelease] at h
    refine Or.inl (command_moves (fun s => ?_) h)
    repeat' split
    · exact .refl s
    · exact .refl s
    · rename_i hn
      exact (Move.release s (by simpa using hn)).moves
  | stageOpen p w =>
    simp only [exec, execStageOpen] at h
    refine Or.inl (command_moves (fun s => ?_) h)
    repeat' split
    · exact .refl s
    · exact .refl s
    · exact .refl s
    · rename_i hh _ _
      exact (Move.openPage s _ (isHolder_isSome (by simpa using hh))).moves
  | program p w =>
    simp only [exec, execProgram] at h
    refine Or.inl (command_moves (fun s => ?_) h)
    exact program_moves s p
  | erase p w =>
    simp only [exec, execErase] at h
    refine Or.inl (command_moves (fun s => ?_) h)
    exact erase_moves s p _
  | dropUnlocked p w =>
    simp only [exec, execDropUnlocked] at h
    refine Or.inl (command_moves (fun s => ?_) h)
    split
    · exact .refl s
    · dsimp only
      exact dropUnlocked_moves s
  | dropAll p w =>
    simp only [exec, execDropAll] at h
    refine Or.inl (command_moves (fun s => ?_) h)
    split
    · exact .refl s
    · dsimp only
      exact dropAll_moves s
  | linkStop p w =>
    simp only [exec, execLinkStop] at h
    refine Or.inl (command_moves (fun s => ?_) h)
    repeat' split
    · exact .refl s
    · exact .refl s
    · dsimp only
      exact stopLink_moves s
  | linkStart p w =>
    simp only [exec, execLinkStart] at h
    refine Or.inl (command_moves (fun s => ?_) h)
    repeat' split
    · exact .refl s
    · exact .refl s
    · dsimp only
      exact Moves.after_settle (Moves.after_beginBringup (.started s))
  | fenceClear p w =>
    simp only [exec, execFenceClear] at h
    refine Or.inl (command_moves (fun s => ?_) h)
    split
    · exact .refl s
    · exact setPort_moves s p _
  | dirPick p w =>
    simp only [exec, execDirPick] at h
    refine Or.inl (command_moves (fun s => ?_) h)
    split
    · exact dirPick_moves s p _
    · exact .refl s
  | fenceWrite p w =>
    simp only [exec, execFenceWrite] at h
    exact Or.inl (registerWrite_moves h)
  | noticeEnableWrite p w =>
    simp only [exec, execNoticeEnableWrite] at h
    exact Or.inl (registerWrite_moves h)
  | portSettingsWrite p w =>
    simp only [exec, execPortSettingsWrite] at h
    exact Or.inl (registerWrite_moves h)
  | alarmsWrite p w =>
    simp only [exec, execAlarmsWrite] at h
    exact Or.inl (registerWrite_moves h)
  | noticePendingWrite p w =>
    simp only [exec, execNoticePendingWrite] at h
    exact Or.inl (registerWrite_moves h)
  | sharedSetupWrite p index w => exact Or.inl (execSharedSetupWrite_moves h)
  | controlWriteIgnored p offset w =>
    simp only [exec, execControlWriteIgnored] at h
    exact Or.inl (registerWrite_moves h)
  | controlUnalignedAccess p offset n =>
    simp only [exec, execControlUnalignedAccess, Host.Outcome.next.injEq] at h
    subst h
    refine Or.inl ?_
    split
    · exact (quiet_moves s).trans (answerError_moves _ _ _ _)
    · exact quiet_moves s
  | portEnChange p high => exact Or.inl (execPortEnChange_moves h)
  | takeAssert => exact Or.inl (execTakeAssert_moves h)
  | takeRelease => exact Or.inl (execTakeRelease_moves h)
  | hubResetAssert =>
    simp only [exec, execHubResetAssert, Host.Outcome.next.injEq] at h
    subst h
    exact Or.inl ((quiet_moves s).trans (assertReset_moves _))
  | readDeadline p => exact Or.inl (execReadDeadline_moves h)
  | grantTimerExpiry =>
    simp only [exec, execGrantTimerExpiry] at h
    refine Or.inl (hubEvent_moves (fun s => ?_) h)
    split
    · rename_i m p hm hp
      exact ((reachMoment_moves s m).step (.expire _ (by rw [State.reachMoment]; rw [hm]; rfl))).trans (raise_moves _ _ _)
    · exact .refl s
  | wakeDelayExpiry c =>
    simp only [exec, execWakeDelayExpiry] at h
    refine Or.inl (hubEvent_moves (fun s => ?_) h)
    repeat' split
    · exact (reachMoment_moves s _).trans (startIdent_moves _ c)
    · exact .refl s
    · exact .refl s
  | pollTimerExpiry c =>
    simp only [exec, execPollTimerExpiry] at h
    refine Or.inl (hubEvent_moves (fun s => ?_) h)
    repeat' split
    · exact ((reachMoment_moves s _).trans (setEngine_moves _ c _)).trans (startTransaction_moves _ _ _ _ _ _ _)
    · exact .refl s
    · exact .refl s
  | operationTimerExpiry c =>
    simp only [exec, execOperationTimerExpiry] at h
    refine Or.inl (hubEvent_moves (fun s => ?_) h)
    repeat' split
    · exact (reachMoment_moves s _).trans (timeOut_moves _ c)
    · exact .refl s
    · exact .refl s
  | wakeEnd c =>
    simp only [exec, execWakeEnd] at h
    refine Or.inl (hubEvent_moves (fun s => ?_) h)
    repeat' split
    · exact startIdent_moves s c
    · exact setEngine_moves s c _
    · exact .refl s
  | identEnd c maker typeCode capacity =>
    simp only [exec, execIdentEnd] at h
    refine Or.inl (hubEvent_moves (fun s => ?_) h)
    split
    · exact Moves.after_settle (Moves.after_checkBringup (judgeIdentity_moves (.start s) c _ _ _))
    · exact .refl s
  | fillComplete c data =>
    simp only [exec, execFillComplete] at h
    refine Or.inl (hubEvent_moves (fun s => ?_) h)
    repeat' split
    · exact completeFill_moves s c _ _ _
    · exact .refl s
    · exact .refl s
    · exact .refl s
  | enableWriteEnd c =>
    simp only [exec, execEnableWriteEnd] at h
    refine Or.inl (hubEvent_moves (fun s => ?_) h)
    repeat' split
    · exact startTransaction_moves _ _ _ _ _ _ _
    · exact startTransaction_moves _ _ _ _ _ _ _
    · exact .refl s
    · exact .refl s
  | programPageEnd c =>
    simp only [exec, execProgramPageEnd] at h
    refine Or.inl (hubEvent_moves (fun s => ?_) h)
    split
    · exact setEngine_moves s c _
    · exact .refl s
  | eraseBlockEnd c =>
    simp only [exec, execEraseBlockEnd] at h
    refine Or.inl (hubEvent_moves (fun s => ?_) h)
    split
    · exact setEngine_moves s c _
    · exact .refl s
  | readStatusEnd c status =>
    simp only [exec, execReadStatusEnd] at h
    refine Or.inl (hubEvent_moves (fun s => ?_) h)
    repeat' split
    · exact setEngine_moves s c _
    · exact busyClear_moves s c _ _
    · exact .refl s
    · exact .refl s
  | verifyReadEnd c data =>
    simp only [exec, execVerifyReadEnd] at h
    refine Or.inl (hubEvent_moves (fun s => ?_) h)
    repeat' split
    · have k := restEngine_moves s c .idle
      exact Moves.after_settle (k.trans (endPhase_moves (.start _) c _ _))
    · exact .refl s
    · exact .refl s

end Sys2Proof.Machine
end

