-- ==== Sys2Proof/Laws/Frame.lean ====
section
/-! SUPPORT. What every event but a Shared Setup write and the lines leaves alone: the reset line, the Shared Setup, the time
base, the straps, the TAKE line and the waiting commands. -/

namespace Sys2Proof.Machine

/-- The parts of the hub that only a Shared Setup write, an expiry, an input line or a tick changes. -/
structure Framed (s t : State) : Prop where
  inReset : t.inReset = s.inReset
  setup : t.setup = s.setup
  now : t.now = s.now
  refclkCount : t.refclkCount = s.refclkCount
  pending : t.pending = s.pending
  strap : t.link.strap = s.link.strap
  takeLine : t.link.takeLine = s.link.takeLine

theorem Framed.refl (s : State) : Framed s s := ⟨rfl, rfl, rfl, rfl, rfl, rfl, rfl⟩

theorem Framed.trans {s t u : State} (h : Framed s t) (k : Framed t u) : Framed s u :=
  ⟨k.1.trans h.1, k.2.trans h.2, k.3.trans h.3, k.4.trans h.4, k.5.trans h.5, k.6.trans h.6, k.7.trans h.7⟩

theorem Framed.of_eq {s t : State} (h1 : t.inReset = s.inReset) (h2 : t.setup = s.setup) (h3 : t.now = s.now)
    (h4 : t.refclkCount = s.refclkCount) (h5 : t.pending = s.pending) (h6 : t.link.strap = s.link.strap)
    (h7 : t.link.takeLine = s.link.takeLine) : Framed s t := ⟨h1, h2, h3, h4, h5, h6, h7⟩

theorem Contained.framed {s t : State} (h : Contained s t) : Framed s t :=
  ⟨h.inReset, h.setup, h.now, h.refclkCount, h.pending, by rw [h.link], by rw [h.link]⟩

theorem Local.framed {s t : State} (h : Local s t) : Framed s t := h.toContained.framed

theorem Concluded.framed {s t : State} (h : Concluded s t) : Framed s t :=
  ⟨h.inReset, h.setup, h.now, h.refclkCount, h.pending, by rw [h.link], by rw [h.link]⟩

theorem Framed.foldl {α : Type} (l : List α) (f : State → α → State) (h : ∀ t x, Framed t (f t x)) (s : State) :
    Framed s (l.foldl f s) := by
  induction l generalizing s with
  | nil => exact .refl s
  | cons x l ih => exact (h s x).trans (ih _)

/-! ### Runs of an event in progress -/

theorem Framed.started (s : State) : Framed s (Ongoing.start s).hub := .refl s

theorem Framed.after_on {s : State} {g : Ongoing} {f : State → State} (h : Framed s g.hub) (k : ∀ t, Framed t (f t)) :
    Framed s (g.on f).hub := h.trans (k g.hub)

theorem Framed.after_settle {s : State} {g : Ongoing} (h : Framed s g.hub) : Framed s g.settle :=
  h.trans (settle_concluded g).framed

theorem Framed.after_activate {s : State} {g : Ongoing} (h : Framed s g.hub) (a : Alarm) : Framed s (g.activate a).hub :=
  h.trans (activate_contained g a).framed

theorem Framed.after_oweVictims {s : State} {g : Ongoing} (h : Framed s g.hub) : Framed s g.oweVictims.hub := h

theorem Framed.after_endPreload {s : State} {g : Ongoing} (h : Framed s g.hub) (p : Port) (status : PreloadStatus) :
    Framed s (g.endPreload p status).hub := h.trans (endPreload_local g p status).framed

theorem Framed.after_endPreloadsLink {s : State} {g : Ongoing} (h : Framed s g.hub) (sel : State → Port → Bool) :
    Framed s (g.endPreloadsLink sel).hub := h.trans (endPreloadsLink_local g sel).framed

theorem Framed.after_retakeHeld {s : State} {g : Ongoing} (h : Framed s g.hub) (state : ReadState) :
    Framed s (g.on (fun t => t.retakeHeld state)).hub := h.trans (retakeHeld_local g.hub state).framed

theorem Framed.after_retakeVictims {s : State} {g : Ongoing} (h : Framed s g.hub) (also : PortSet) :
    Framed s (g.retakeVictims also).hub := h.trans (retakeVictims_local g also).framed

theorem Framed.after_retakeDue {s : State} {g : Ongoing} (h : Framed s g.hub) : Framed s g.retakeDue.hub :=
  h.trans (retakeDue_local g).framed

theorem Framed.after_actCursors {s : State} {g : Ongoing} (h : Framed s g.hub) : Framed s g.actCursors.hub :=
  h.trans (actCursors_local g).framed

theorem Framed.after_drop {s : State} {g : Ongoing} (h : Framed s g.hub) (sel : Fin 16 → Bool) :
    Framed s (g.drop sel).hub := h.trans (drop_local g sel).framed

/-! ### Named operations -/

theorem setPort_framed (s : State) (p : Port) (v : PortState) : Framed s (s.setPort p v) := .of_eq rfl rfl rfl rfl rfl rfl rfl

theorem setEngine_framed (s : State) (c : Channel) (v : Engine) : Framed s (s.setEngine c v) :=
  .of_eq rfl rfl rfl rfl rfl rfl rfl

theorem update_framed (s : State) (v : UpdateController) : Framed s { s with update := v } :=
  .of_eq rfl rfl rfl rfl rfl rfl rfl

theorem quiet_framed (s : State) : Framed s s.quiet := .of_eq rfl rfl rfl rfl rfl rfl rfl

theorem raise_framed (s : State) (p : Port) (n : Notice) : Framed s (s.raise p n) := (raise_local s p n).framed

theorem raiseAll_framed (s : State) (n : Notice) : Framed s (s.raiseAll n) := (raiseAll_local s n).framed

theorem deactivate_framed (s : State) (a : Alarm) : Framed s (s.deactivate a) := .of_eq rfl rfl rfl rfl rfl rfl rfl

theorem restartGrantTimer_framed (s : State) : Framed s s.restartGrantTimer := by
  unfold State.restartGrantTimer
  split
  · exact update_framed s _
  · exact .refl s

theorem touchGrant_framed (s : State) (p : Port) : Framed s (s.touchGrant p) := by
  unfold State.touchGrant
  split
  · exact restartGrantTimer_framed s
  · exact .refl s

theorem removeLinkDown_framed (s : State) (sel : Record → Bool) : Framed s (s.removeLinkDown sel) :=
  (removeLinkDown_local s sel).framed

/-! ### The update operation -/

theorem storeChunks_framed (s : State) (e : Fin 16) (first count : Nat) (data : List Byte) :
    Framed s (s.storeChunks e first count data) := .of_eq rfl rfl rfl rfl rfl rfl rfl

theorem applyPageResult_framed (s : State) (page : Nat) (r : PageResult) : Framed s (s.applyPageResult page r) := by
  unfold State.applyPageResult
  split
  · exact .refl s
  · split
    · exact storeChunks_framed s _ _ _ _
    · exact .of_eq rfl rfl rfl rfl rfl rfl rfl
    · exact .refl s

theorem applyBlockResult_framed (s : State) (block : Nat) (r : BlockResult) : Framed s (s.applyBlockResult block r) := by
  unfold State.applyBlockResult
  split
  · exact .refl s
  · split
    · exact storeChunks_framed s _ _ _ _
    · exact .of_eq rfl rfl rfl rfl rfl rfl rfl
    · exact .refl s

theorem applyTargetResult_framed (s : State) (op : UpdateOp) (r : TargetResult) :
    Framed s (s.applyTargetResult op r) := by
  unfold State.applyTargetResult
  split
  all_goals first
    | exact applyPageResult_framed s _ _
    | exact applyBlockResult_framed s _ _

theorem withdraw_framed (s : State) (op : UpdateOp) (o : Overall) : Framed s (s.withdraw op o) := by
  unfold State.withdraw
  simp only
  split <;> exact .of_eq rfl rfl rfl rfl rfl rfl rfl

theorem concludeGrant_framed (s : State) (op : UpdateOp) (o : Overall) : Framed s (s.concludeGrant op o) := by
  unfold State.concludeGrant
  split
  · exact .of_eq rfl rfl rfl rfl rfl rfl rfl
  · exact (restartGrantTimer_framed s).trans (raise_framed _ _ _)

theorem publish_framed (s : State) (op : UpdateOp) : Framed s (s.publish op) := update_framed s _

theorem clearTarget_framed (s : State) : Framed s s.clearTarget := by
  unfold State.clearTarget
  refine ((removeRecords_local s s.pendingInTarget).framed).trans (Framed.foldl _ _ (fun t p => ?_) _)
  split
  · exact (holdForUpdate_local t p).framed
  · exact .refl t

theorem accept_framed (s : State) (op : UpdateOp) : Framed s (s.accept op) := by
  have h : Framed s ((s.publish op).clearTarget.queueOperation op) :=
    ((publish_framed s op).trans (clearTarget_framed _)).trans (.of_eq rfl rfl rfl rfl rfl rfl rfl)
  unfold State.accept
  simp only
  exact Framed.after_settle h

theorem endOperation_framed (g : Ongoing) (op : UpdateOp) (o : Overall) (r : TargetResult) (d : Bool) :
    Framed g.hub (g.endOperation op o r d).hub := by
  have h1 : Framed g.hub (g.on (fun s => ((s.applyTargetResult op r).writeUpdateResult op o).withdraw op o)).hub :=
    ((applyTargetResult_framed g.hub op r).trans (update_framed _ _)).trans (withdraw_framed _ op o)
  unfold Ongoing.endOperation
  generalize g.on (fun s => ((s.applyTargetResult op r).writeUpdateResult op o).withdraw op o) = h at h1
  simp only
  split
  · exact ((h1.after_retakeVictims _).after_actCursors).trans (concludeGrant_framed _ op o)
  · exact ((h1.after_retakeHeld _).after_actCursors).trans (concludeGrant_framed _ op o)

theorem Framed.after_endOperation {s : State} {g : Ongoing} (h : Framed s g.hub) (op : UpdateOp) (o : Overall)
    (r : TargetResult) (d : Bool) : Framed s (g.endOperation op o r d).hub := h.trans (endOperation_framed g op o r d)

theorem degrade_framed (g : Ongoing) (c : Channel) : Framed g.hub (g.degrade c).hub := by
  unfold Ongoing.degrade
  refine Framed.after_activate (Framed.after_on (.refl _) (fun t => ?_)) _
  simp only
  split <;> exact .of_eq rfl rfl rfl rfl rfl rfl rfl

theorem endPhase_framed (g : Ongoing) (c : Channel) (o : PhaseOutcome) (data : List Byte) :
    Framed g.hub (g.endPhase c o data).hub := by
  unfold Ongoing.endPhase
  simp only
  split
  · exact .refl _
  · split
    · exact endOperation_framed g _ _ _ _
    · split
      · exact .of_eq rfl rfl rfl rfl rfl rfl rfl
      · exact (degrade_framed g _).trans (endOperation_framed _ _ _ _ _)
    · split
      · exact endOperation_framed g _ _ _ _
      · exact (degrade_framed g _).trans (endOperation_framed _ _ _ _ _)

/-! ### Faults, stops, bring-ups and takeovers -/

theorem answerFaulted_framed (g : Ongoing) (sel : Record → Bool) (q : List Record) :
    Framed g.hub (g.answerFaulted sel q).hub := by
  refine Framed.foldl _ _ (fun t p => ?_) g.hub
  split
  · exact (answerLinkDown_local t p).framed
  · exact .refl t

theorem linkState_framed (s : State) (x : LinkState) : Framed s { s with link := { s.link with state := x } } :=
  .of_eq rfl rfl rfl rfl rfl rfl rfl

theorem goDown_framed (g : Ongoing) : Framed g.hub g.goDown.hub := by
  unfold Ongoing.goDown
  refine Framed.after_oweVictims (Framed.after_endPreloadsLink (Framed.after_on (.refl _) (fun t => ?_)) _)
  exact (linkState_framed t .down).trans (removeLinkDown_framed _ _)

theorem loseChannel_framed (g : Ongoing) (c : Channel) : Framed g.hub (g.loseChannel c).hub := by
  unfold Ongoing.loseChannel
  exact Framed.after_oweVictims (Framed.after_endPreloadsLink (Framed.after_on (.refl _)
    (fun t => removeLinkDown_framed t _)) _)

theorem channelFault_framed (g : Ongoing) (c : Channel) (m : Option Mode) : Framed g.hub (g.channelFault c m).hub := by
  unfold Ongoing.channelFault
  split
  · exact .refl _
  · split
    · exact loseChannel_framed g c
    · exact goDown_framed g
  · exact goDown_framed g
  · exact goDown_framed g
  · exact .refl _

theorem wakeChannel_framed (s : State) (c : Channel) : Framed s (s.wakeChannel c) := by
  unfold State.wakeChannel
  simp only
  split <;> exact .of_eq rfl rfl rfl rfl rfl rfl rfl

theorem retireEngine_framed (s : State) (c : Channel) : Framed s (s.retireEngine c) := by
  unfold State.retireEngine
  split
  · exact .of_eq rfl rfl rfl rfl rfl rfl rfl
  · exact .refl s

theorem endBringup_framed (g : Ongoing) : Framed g.hub g.endBringup.hub := by
  unfold Ongoing.endBringup
  simp only
  generalize pairing _ _ _ _ = m
  have h1 : Framed g.hub (g.on (fun s => { s with link := { s.link with mode := m, imageSize := s.sizeOf m } })).hub :=
    Framed.after_on (.refl _) (fun t => .of_eq rfl rfl rfl rfl rfl rfl rfl)
  generalize g.on (fun s => { s with link := { s.link with mode := m, imageSize := s.sizeOf m } }) = g1 at h1
  have h2 : Framed g.hub
      (if g.hub.setup.configuredMode = .mirror ∧ m ≠ some .mirror then g1.activate .pairFault else g1).hub := by
    split
    · exact h1.after_activate _
    · exact h1
  generalize (if g.hub.setup.configuredMode = .mirror ∧ m ≠ some .mirror then g1.activate .pairFault else g1) = g2 at h2
  refine Framed.after_on (Framed.after_retakeHeld (Framed.after_on h2 (fun t => ?_)) _) (fun t => raiseAll_framed t _)
  exact ((retireEngine_framed t .a).trans (retireEngine_framed _ .b)).trans (linkState_framed _ _)

theorem checkBringup_framed (g : Ongoing) : Framed g.hub g.checkBringup.hub := by
  unfold Ongoing.checkBringup
  split
  · exact endBringup_framed g
  · exact .refl _

theorem Framed.after_checkBringup {s : State} {g : Ongoing} (h : Framed s g.hub) : Framed s g.checkBringup.hub :=
  h.trans (checkBringup_framed g)

theorem beginBringup_framed (g : Ongoing) : Framed g.hub g.beginBringup.hub := by
  unfold Ongoing.beginBringup
  simp only
  refine Framed.after_checkBringup (Framed.after_on ?_
    (fun t => (wakeChannel_framed t .a).trans (wakeChannel_framed _ .b)))
  have h : Framed g.hub (g.on (fun s =>
      (({ s with link := { s.link with state := .bringup, mode := none, imageSize := 0, firstBringupDone := true } }
        ).deactivate .pairFault).deactivate .mirrorDegraded)).hub :=
    Framed.after_on (.refl _) (fun t => .of_eq rfl rfl rfl rfl rfl rfl rfl)
  split
  · exact h
  · exact Framed.after_retakeDue (Framed.after_on (h.after_drop _) (fun t => raiseAll_framed t _))

theorem Framed.after_beginBringup {s : State} {g : Ongoing} (h : Framed s g.hub) : Framed s g.beginBringup.hub :=
  h.trans (beginBringup_framed g)

theorem stopLink_framed (s : State) : Framed s s.stopLink := by
  unfold State.stopLink
  simp only
  refine Framed.after_settle (Framed.after_oweVictims ?_)
  have h : Framed s (((Ongoing.start s).on (fun s =>
      { s with link := { s.link with state := .stopping } }.removeLinkDown
        (fun r => r.isPending && !r.isUpdateOp))).endPreloadsLink (fun _ _ => true)).hub := by
    refine Framed.after_endPreloadsLink (Framed.after_on (.started s) (fun t => ?_)) _
    exact (linkState_framed t .stopping).trans (removeLinkDown_framed _ _)
  generalize ((Ongoing.start s).on (fun s =>
      { s with link := { s.link with state := .stopping } }.removeLinkDown
        (fun r => r.isPending && !r.isUpdateOp))).endPreloadsLink (fun _ _ => true) = g at h
  repeat' split
  · exact h.after_endOperation _ _ _ _
  · exact h
  · exact h

theorem abandonEngine_framed (s : State) (c : Channel) : Framed s (s.abandonEngine c) := by
  unfold State.abandonEngine
  simp only
  split <;> exact .of_eq rfl rfl rfl rfl rfl rfl rfl

theorem takeover_framed (g : Ongoing) : Framed g.hub g.takeover.hub := by
  unfold Ongoing.takeover
  simp only
  refine Framed.after_activate ?_ _
  have h1 : Framed g.hub (((g.on (fun s =>
      { (s.abandonEngine .a).abandonEngine .b with link := { ((s.abandonEngine .a).abandonEngine .b).link with
          state := .relinquished, takeAck := true, takeoverStopped := g.hub.link.state == .stopped } })).on
      (fun s => (s.removeLinkDown (fun _ => true)).endDrains)).endPreloadsLink (fun _ _ => true)).hub := by
    refine Framed.after_endPreloadsLink (Framed.after_on (Framed.after_on (.refl _) (fun t => ?_)) (fun t => ?_)) _
    · exact ((abandonEngine_framed t .a).trans (abandonEngine_framed _ .b)).trans (.of_eq rfl rfl rfl rfl rfl rfl rfl)
    · exact (removeLinkDown_framed t _).trans (endDrains_local _).framed
  generalize ((g.on (fun s =>
      { (s.abandonEngine .a).abandonEngine .b with link := { ((s.abandonEngine .a).abandonEngine .b).link with
          state := .relinquished, takeAck := true, takeoverStopped := g.hub.link.state == .stopped } })).on
      (fun s => (s.removeLinkDown (fun _ => true)).endDrains)).endPreloadsLink (fun _ _ => true) = h at h1
  cases g.hub.update.op.map g.hub.abandonedOp with
  | none =>
    simp only
    split
    · exact (h1.after_retakeVictims _).after_retakeHeld _
    · exact h1.after_retakeVictims _
  | some op =>
    simp only
    split
    · exact ((h1.after_endOperation _ _ _ _).after_retakeVictims _).after_retakeHeld _
    · exact (h1.after_endOperation _ _ _ _).after_retakeVictims _

theorem releaseTake_framed (g : Ongoing) : Framed g.hub g.releaseTake.hub := by
  unfold Ongoing.releaseTake
  have h : Framed g.hub (g.on (fun s =>
      { s with link := { s.link with takeAck := false } }.deactivate .linkTaken)).hub :=
    Framed.after_on (.refl _) (fun t => .of_eq rfl rfl rfl rfl rfl rfl rfl)
  generalize g.on (fun s => { s with link := { s.link with takeAck := false } }.deactivate .linkTaken) = g1 at h
  simp only
  split
  · exact Framed.after_on (Framed.after_drop (Framed.after_on h (fun t => linkState_framed t _)) _)
      (fun t => raiseAll_framed t _)
  · exact h.after_beginBringup

/-! ### Attachment -/

theorem removeAllHolds_framed (s : State) (p : Port) : Framed s (s.removeAllHolds p) := (removeAllHolds_local s p).framed

theorem detachGrant_framed (s : State) (p : Port) : Framed s (s.detachGrant p) := by
  unfold State.detachGrant
  split
  · split
    · exact update_framed s _
    · exact update_framed s _
  · exact .refl s

theorem detach_framed (g : Ongoing) (p : Port) : Framed g.hub (g.detach p).hub := by
  unfold Ongoing.detach
  refine Framed.after_oweVictims ?_
  have h : Framed g.hub (g.on (fun s =>
      (s.setPort p { s.port p with attached := false, read := none }).leaveRecords p)).hub :=
    Framed.after_on (.refl _) (fun t => .of_eq rfl rfl rfl rfl rfl rfl rfl)
  have h' := h.after_endPreload p .detached
  generalize (g.on (fun s =>
      (s.setPort p { s.port p with attached := false, read := none }).leaveRecords p)).endPreload p .detached = g1 at h'
  refine Framed.after_on h' (fun t => ?_)
  exact ((removeAllHolds_framed t p).trans (detachGrant_framed _ p)).trans (setPort_framed _ p _)

theorem followAttach_framed (s : State) (p : Port) : Framed s (s.followAttach p) := by
  unfold State.followAttach
  repeat' split
  · exact .refl s
  · exact Framed.after_settle (detach_framed (Ongoing.start s) p)
  · exact setPort_framed s p _
  · exact .refl s

end Sys2Proof.Machine
end

