-- ==== Sys2Proof/Laws/Memory.lean ====
section
/-! SUPPORT. What the byte buffers do: a write keeps the canonical form, and a read after a write. -/

namespace Sys2Proof.Machine

theorem Memory.wf_iff (m : Memory) :
    m.wf = true ↔ (∀ cell ∈ m, cell.2 ≠ Config.unlistedByte) ∧ m.Pairwise (fun c d => c.1 < d.1) := by
  induction m with
  | nil => simp [Memory.wf]
  | cons c rest ih =>
    simp only [Memory.wf, Bool.and_eq_true, bne_iff_ne, List.all_eq_true, decide_eq_true_eq, ih, List.mem_cons,
      forall_eq_or_imp, List.pairwise_cons]
    tauto

@[simp] theorem Memory.wf_nil : Memory.wf [] = true := rfl

/-- The cells of a run lie inside it, hold its bytes, and none holds the unlisted byte. -/
theorem Memory.mem_cellsFrom (bytes : List Byte) (address : Nat) (cell : Host.Cell) :
    cell ∈ Memory.cellsFrom address bytes ↔
      cell.2 ≠ Config.unlistedByte ∧ ∃ i, cell.1 = address + i ∧ bytes[i]? = some cell.2 := by
  induction bytes generalizing address with
  | nil => simp [Memory.cellsFrom]
  | cons b rest ih =>
    have step : (∃ i, cell.1 = address + i ∧ (b :: rest)[i]? = some cell.2) ↔
        (cell.1 = address ∧ b = cell.2) ∨ ∃ i, cell.1 = address + 1 + i ∧ rest[i]? = some cell.2 := by
      constructor
      · rintro ⟨i, hi, hb⟩
        cases i with
        | zero => exact Or.inl ⟨by simpa using hi, by simpa using hb⟩
        | succ i => exact Or.inr ⟨i, by omega, by simpa using hb⟩
      · rintro (⟨h, hb⟩ | ⟨i, hi, hb⟩)
        · exact ⟨0, by simpa using h, by simpa using hb⟩
        · exact ⟨i + 1, by omega, by simpa using hb⟩
    rw [step]
    unfold Memory.cellsFrom
    split
    · rename_i hb
      rw [ih]
      constructor
      · rintro ⟨h, i⟩; exact ⟨h, Or.inr i⟩
      · rintro ⟨h, ⟨_, h'⟩ | i⟩
        · exact absurd (h'.symm.trans hb) h
        · exact ⟨h, i⟩
    · rename_i hb
      rw [List.mem_cons, ih]
      constructor
      · rintro (rfl | ⟨h, i⟩)
        · exact ⟨hb, Or.inl ⟨rfl, rfl⟩⟩
        · exact ⟨h, Or.inr i⟩
      · rintro ⟨h, ⟨h1, h2⟩ | i⟩
        · exact Or.inl (Prod.ext h1 h2.symm)
        · exact Or.inr ⟨h, i⟩

theorem Memory.cellsFrom_bounds {bytes : List Byte} {address : Nat} {cell : Host.Cell}
    (h : cell ∈ Memory.cellsFrom address bytes) : address ≤ cell.1 ∧ cell.1 < address + bytes.length := by
  obtain ⟨_, i, hi, hb⟩ := (Memory.mem_cellsFrom bytes address cell).1 h
  have := (List.getElem?_eq_some_iff.1 hb).1
  omega

theorem Memory.cellsFrom_rising (bytes : List Byte) (address : Nat) :
    (Memory.cellsFrom address bytes).Pairwise (fun c d => c.1 < d.1) := by
  induction bytes generalizing address with
  | nil => exact List.Pairwise.nil
  | cons b rest ih =>
    unfold Memory.cellsFrom
    split
    · exact ih _
    · refine List.pairwise_cons.2 ⟨fun d hd => ?_, ih _⟩
      have := (Memory.cellsFrom_bounds hd).1
      show address < d.1
      omega

/-- A write keeps the canonical form. -/
theorem Memory.writeRange_wf {m : Memory} (h : m.wf = true) (address : Nat) (bytes : List Byte) :
    (m.writeRange address bytes).wf = true := by
  rw [Memory.wf_iff] at h ⊢
  obtain ⟨hb, hr⟩ := h
  unfold Memory.writeRange
  constructor
  · intro cell hc
    simp only [List.mem_append, List.mem_filter] at hc
    rcases hc with ⟨hc, _⟩ | hc | ⟨hc, _⟩
    · exact hb _ hc
    · exact ((Memory.mem_cellsFrom bytes address cell).1 hc).1
    · exact hb _ hc
  · refine List.pairwise_append.2 ⟨hr.filter _, List.pairwise_append.2
      ⟨Memory.cellsFrom_rising _ _, hr.filter _, ?_⟩, ?_⟩
    · intro c hc d hd
      have h1 := (Memory.cellsFrom_bounds hc).2
      simp only [List.mem_filter, decide_eq_true_eq] at hd
      omega
    · intro c hc d hd
      simp only [List.mem_filter, decide_eq_true_eq] at hc
      rcases List.mem_append.1 hd with hd | hd
      · have := (Memory.cellsFrom_bounds hd).1
        omega
      · simp only [List.mem_filter, decide_eq_true_eq] at hd
        omega

/-- What a read finds: the one cell of the address, or the unlisted byte. -/
theorem Memory.read_eq_of_mem {m : Memory} (h : m.Pairwise (fun c d => c.1 < d.1)) {cell : Host.Cell} (hc : cell ∈ m) :
    m.read cell.1 = cell.2 := by
  induction m with
  | nil => cases hc
  | cons c rest ih =>
    obtain ⟨h1, h2⟩ := List.pairwise_cons.1 h
    unfold Memory.read
    rw [List.find?_cons]
    rcases List.mem_cons.1 hc with rfl | hc
    · simp
    · have hlt := h1 _ hc
      have hne : (c.1 == cell.1) = false := by simp; omega
      rw [hne]
      exact ih h2 hc

theorem Memory.read_eq_unlisted {m : Memory} {address : Nat} (h : ∀ cell ∈ m, cell.1 ≠ address) :
    m.read address = Config.unlistedByte := by
  unfold Memory.read
  have : m.find? (fun cell => cell.1 == address) = none := by
    rw [List.find?_eq_none]
    intro cell hc
    simpa using h cell hc
  rw [this]

/-- Outside the written run every address reads as before. -/
theorem Memory.read_writeRange_outside (m : Memory) (address : Nat) (bytes : List Byte) {a : Nat}
    (h : a < address ∨ address + bytes.length ≤ a) : (m.writeRange address bytes).read a = m.read a := by
  unfold Memory.read Memory.writeRange
  have hmid : (Memory.cellsFrom address bytes).find? (fun cell => cell.1 == a) = none := by
    rw [List.find?_eq_none]
    intro cell hc
    have := Memory.cellsFrom_bounds hc
    simp only [beq_iff_eq]
    omega
  have key : ∀ (p : Nat → Bool) (_ : p a = true),
      (m.filter (fun cell => p cell.1)).find? (fun cell => cell.1 == a) = m.find? (fun cell => cell.1 == a) := by
    intro p hp
    rw [List.find?_filter]
    congr 1
    funext cell
    by_cases hc : cell.1 = a
    · simp [hc, hp]
    · simp [hc]
  have none : ∀ (p : Nat → Bool) (_ : p a = false),
      (m.filter (fun cell => p cell.1)).find? (fun cell => cell.1 == a) = none := by
    intro p hp
    rw [List.find?_eq_none]
    intro cell hc
    simp only [List.mem_filter] at hc
    intro hk
    have : cell.1 = a := by simpa using hk
    rw [this, hp] at hc
    exact absurd hc.2 (by simp)
  rw [List.find?_append, List.find?_append, hmid, Option.none_or]
  rcases h with h | h
  · rw [key (fun x => x < address) (by simpa using h),
      none (fun x => address + bytes.length ≤ x) (by simp; omega), Option.or_none]
  · rw [none (fun x => x < address) (by simp; omega), Option.none_or,
      key (fun x => address + bytes.length ≤ x) (by simpa using h)]

theorem Memory.read_append_skip {m n : Memory} {a : Nat} (h : ∀ cell ∈ m, cell.1 ≠ a) :
    Memory.read (m ++ n) a = Memory.read n a := by
  unfold Memory.read
  have : m.find? (fun cell => cell.1 == a) = none := by
    rw [List.find?_eq_none]
    intro cell hc
    simpa using h cell hc
  rw [List.find?_append, this, Option.none_or]

theorem Memory.read_append_stop {m n : Memory} {a : Nat} (h : ∀ cell ∈ n, cell.1 ≠ a) :
    Memory.read (m ++ n) a = Memory.read m a := by
  unfold Memory.read
  have : n.find? (fun cell => cell.1 == a) = none := by
    rw [List.find?_eq_none]
    intro cell hc
    simpa using h cell hc
  rw [List.find?_append, this, Option.or_none]

/-- Inside the written run the buffer reads as the bytes written. -/
theorem Memory.read_writeRange_inside (m : Memory) (address : Nat) (bytes : List Byte) (i : Nat)
    (h : i < bytes.length) : (m.writeRange address bytes).read (address + i) = bytes[i] := by
  unfold Memory.writeRange
  rw [Memory.read_append_skip, Memory.read_append_stop]
  · by_cases hb : bytes[i] = Config.unlistedByte
    · rw [hb]
      apply Memory.read_eq_unlisted
      intro cell hc hk
      obtain ⟨hne, j, hj, hbj⟩ := (Memory.mem_cellsFrom bytes address cell).1 hc
      have hji : j = i := by omega
      subst hji
      rw [List.getElem?_eq_getElem h] at hbj
      exact hne (by simpa [hb] using (Option.some.inj hbj).symm)
    · have hmem : ((address + i, bytes[i]) : Host.Cell) ∈ Memory.cellsFrom address bytes :=
        (Memory.mem_cellsFrom _ _ _).2 ⟨hb, i, rfl, List.getElem?_eq_getElem h⟩
      exact Memory.read_eq_of_mem (Memory.cellsFrom_rising bytes address) hmem
  · intro cell hc
    simp only [List.mem_filter, decide_eq_true_eq] at hc
    omega
  · intro cell hc
    simp only [List.mem_filter, decide_eq_true_eq] at hc
    omega

end Sys2Proof.Machine
end

