-- ==== Sys2Proof/Tests/Slice0.lean ====
section
/-! SUPPORT. The model's own tests: ill-formed commands that the check refuses, one step of every command on a small state, and
for every obligation with hypotheses a state and operands that meet them, clause by clause. -/

namespace Sys2Proof.Tests

set_option Elab.async false

open Sys2Proof.Machine Sys2Proof.Safety Sys2Proof.Claims

/-! ### Ill-formed commands -/

theorem test_illformed_imageWrite_without_bytes : (Instr.imageWrite .cp0 0 []).wellFormed = false ∧
    (Instr.imageWrite .cp0 0 [[1], []]).wellFormed = false := by decide
theorem test_illformed_ignoredWrite_misaligned : (Instr.controlWriteIgnored .cp0 0x01 0).wellFormed = false := by decide
theorem test_illformed_ignoredWrite_writable : (Instr.controlWriteIgnored .cp0 0x18 0).wellFormed = false := by decide
theorem test_illformed_ignoredWrite_command : (Instr.controlWriteIgnored .cp0 0x7C 0).wellFormed = false := by decide
theorem test_illformed_ignoredWrite_setup : (Instr.controlWriteIgnored .cp0 0xC0 0).wellFormed = false := by decide
theorem test_illformed_unaligned_aligned : (Instr.controlUnalignedAccess .cp0 0x04 4).wellFormed = false := by decide
theorem test_illformed_unaligned_empty : (Instr.controlUnalignedAccess .cp0 0x04 0).wellFormed = false := by decide
theorem test_illformed_fill_length : (Instr.fillComplete .a [0, 0]).wellFormed = false := by decide
theorem test_illformed_verify_length : (Instr.verifyReadEnd .a [0]).wellFormed = false := by decide
theorem test_wellformed_ignoredWrite : (Instr.controlWriteIgnored .cp0 0x80 7).wellFormed = true := by decide
theorem test_table_gives_no_bits : decodeTableWord 8 0 = none := by decide

/-! ### Small states -/

/-- An OPEN hub in SINGLE_A with an image of 1 MiB, nothing cached and nobody holding anything. -/
def opened : State :=
  { State.reset with
    link := { State.reset.link with state := .opened, mode := some .singleA, imageSize := 2 ^ 20 }
    engines := ⟨{ Engine.afterReset with state := .idle, capacityCode := 20 }, .afterReset⟩ }

/-- The same with the update grant at port 0. -/
def granted : State := { opened with update := { opened.update with holder := some .cp0 } }

/-- A LIVE entry of a block. -/
def liveEntry (block : Nat) (valid : BitVec 128) (holders : PortSet) : Entry :=
  { state := .live, tag := some block, valid := valid, holders := holders, owner := none }

/-- Block 0 in entry 0 with its first chunk valid, held by port 0. -/
def cached : State := opened.setEntry 0 (liveEntry 0 1 (PortSet.empty.set .cp0 true))

/-- The same with the update grant at port 0. -/
def cachedGranted : State := { cached with update := granted.update }

/-- A state with a link state. -/
def inLink (s : State) (state : LinkState) : State := { s with link := { s.link with state := state } }

/-- A state with an engine changed. -/
def onEngine (s : State) (c : Channel) (f : Engine → Engine) : State := s.setEngine c (f (s.engine c))

/-- A state with a port changed. -/
def onPort (s : State) (p : Port) (f : PortState → PortState) : State := s.setPort p (f (s.port p))

/-- A page of the staging buffer open at address 0 with its last byte written. -/
def staged : State :=
  { granted with update :=
    { granted.update with stagedPage := some 0, written := BitVec.twoPow 256 255, stagingData := [(255, 0x12)] } }

/-- A fill of one chunk of block 0 in entry 0 for port 1. -/
def fillOfChunk (chunk : Nat) (state : RecordState) : Record :=
  { origin := .cp1, cls := .demand, level := 1, target := .only .a, state := state
    work := .fill
      { kind := .demand, entry := 0, block := 0, first := chunk, count := 1, waiters := PortSet.empty.set .cp1 true } }

/-- Port 1 waits for that fill. -/
def waitsForFill (s : State) (chunk : Nat) (state : RecordState) : State :=
  { onPort s .cp1 (fun x => { x with
      read := some { address := BitVec.ofNat 25 (32 * chunk + 4), beats := 2, state := .waitingFill, deadline := some 9 } })
    with queue := [fillOfChunk chunk state] }

/-- The fill of the last chunk of a quad in service on channel A. -/
def filling : State :=
  onEngine (waitsForFill cached 3 (.inService .a)) .a (fun x => { x with state := .active, step := .fillRead })

/-- The same fill as the preload fill of port 1, which nobody waits for, while port 1 holds a HELD_VICTIM read of its chunk. -/
def fillingForVictim : State :=
  { onPort filling .cp1 (fun x => { x with
      read := some { address := 100, beats := 1, state := .heldVictim, deadline := none } })
    with queue :=
      [{ fillOfChunk 3 (.inService .a) with
         work := .fill
           { kind := .preload, entry := 0, block := 0, first := 3, count := 1, waiters := PortSet.empty } }] }

/-- An operation of port 0. -/
def operation (kind : OpKind) (target : Nat) (phases : Phases) (current : Phase) : UpdateOp :=
  { kind := kind, target := target, origin := .cp0, phases := phases, current := current, outcomeA := .none
    outcomeB := .none, verifyA := none }

/-- The operation's record. -/
def operationRecord (state : RecordState) : Record :=
  { origin := .cp0, cls := .demand, level := 1, target := .only .a, state := state, work := .updateOp true }

/-- The operation in service on a channel at a step of its phase. -/
def operating (op : UpdateOp) (c : Channel) (step : EngineStep) : State :=
  let s := { cached with
    update := { staged.update with op := some op }
    queue := [operationRecord (.inService c)] }
  onEngine s c (fun x => { x with
    state := .active, step := step, capacityCode := 20, operationTimer := some 40, pollTimer := some 30 })

/-- The same in MIRROR. -/
def mirrored (op : UpdateOp) (c : Channel) (step : EngineStep) : State :=
  let s := operating op c step
  onEngine { s with link := { s.link with mode := some .mirror } } (otherChannel c)
    (fun x => { x with state := .idle, capacityCode := 20 })

/-- Both channels identify themselves. -/
def identifying (mode : ConfiguredMode) : State :=
  { State.reset with
    setup := { State.reset.setup with configuredMode := mode }
    engines :=
      ⟨{ Engine.afterReset with state := .ident, step := .ident }, { Engine.afterReset with state := .ident, step := .ident }⟩ }

/-- The 256 bytes that verify the staged page. -/
def verifyData : List Byte := List.replicate 255 0xFF ++ [0x12]

/-- The operation in SPLIT, with the other channel in a state. -/
def splitOperating (other : EngineState) : State :=
  let s := operating (operation .erase 0 (.one .a) .first) .a .pollWait
  onEngine { s with link := { s.link with mode := some .split } } .b (fun x => { x with state := other, capacityCode := 20 })

/-- In SPLIT the operation on A is about to time out, and the fault fences port 3, whose preload of block 300 of B then ends.
Port 1 waits for the preload's fill, and port 0 holds a HELD_VICTIM read of block 301; no entry but the preload's can become
eligible. -/
def timingOut : State :=
  let s := splitOperating .active
  { onPort (onPort (onPort s .cp0 (fun x => { x with
        read := some { address := BitVec.ofNat 25 (301 * 4096), beats := 1, state := .heldVictim, deadline := none } }))
      .cp1 (fun x => { x with
        read := some { address := BitVec.ofNat 25 (300 * 4096), beats := 1, state := .waitingFill, deadline := none } }))
      .cp3 (fun x => { x with
        autoFence := true, preload := { x.preload with running := true, block := 300, entry := 5 } })
    with
      link := { s.link with imageSize := 2 ^ 21 }
      entries := Vector.ofFn (fun e =>
        if e = 5 then { liveEntry 300 0 PortSet.empty with owner := some .cp3 }
        else liveEntry e.val 1 (PortSet.empty.set .cp0 true))
      queue := s.queue ++
        [{ origin := .cp3, cls := .demand, level := 1, target := .only .b, state := .pending
           work := .fill
             { kind := .preload, entry := 5, block := 300, first := 0, count := 4
               waiters := PortSet.empty.set .cp1 true } }] }

/-- Every entry is LIVE and locked by port 1, but entry 0, which port 0 alone holds, while port 1 holds a HELD_VICTIM read of
block 200. -/
def crowded : State :=
  { onPort staged .cp1 (fun x => { x with
      read := some { address := BitVec.ofNat 25 (200 * 4096), beats := 1, state := .heldVictim, deadline := none } }) with
    entries := Vector.ofFn (fun e => liveEntry e.val 1 (PortSet.empty.set (if e = 0 then .cp0 else .cp1) true)) }

/-- The same with entry 0 held by nobody and named by a record alone. -/
def crowdedFill (r : Record) : State :=
  { crowded.setEntry 0 (liveEntry 0 1 PortSet.empty) with queue := [r] }

/-- The same with a preload of port 2 running on entry 0, its fill pending. -/
def crowdedPreload : State :=
  let r : Record :=
    { origin := .cp2, cls := .preload, level := 1, target := .only .a, state := .pending
      work := .fill { kind := .preload, entry := 0, block := 0, first := 1, count := 3, waiters := PortSet.empty } }
  let s := onPort (crowdedFill r) .cp2 (fun x => { x with preload := { x.preload with running := true, block := 0, entry := 0 } })
  onEngine (s.setEntry 0 { liveEntry 0 1 PortSet.empty with owner := some .cp2 }) .a (fun x => { x with state := .waking })

/-- A demand fill of port 1 in entry 0 that nobody waits for. -/
def leftFill (state : RecordState) : Record :=
  { fillOfChunk 3 state with
    work := .fill { kind := .demand, entry := 0, block := 0, first := 3, count := 1, waiters := PortSet.empty } }

/-- Block 0 wholly valid in entry 0, which nobody holds. -/
def wholeBlock : State := cached.setEntry 0 (liveEntry 0 (BitVec.allOnes 128) PortSet.empty)

/-- The next state of a command; the state itself where there were none. -/
def after (i : Instr) (s : State) : State :=
  match exec i s with
  | .next t => t
  | .fault _ => s
  | .refused _ => s

/-- What holds of each port holds of all. -/
theorem each_port {P : Port → Prop} (h0 : P .cp0) (h1 : P .cp1) (h2 : P .cp2) (h3 : P .cp3) : ∀ p, P p
  | .cp0 => h0
  | .cp1 => h1
  | .cp2 => h2
  | .cp3 => h3

/-- What holds of each channel holds of both. -/
theorem each_channel {P : Channel → Prop} (ha : P .a) (hb : P .b) : ∀ c, P c
  | .a => ha
  | .b => hb

/-! ### One step of each command -/

theorem test_imageRead_hit :
    (after (.imageRead .cp1 28 1) cached).answers = [⟨.cp1, .data [0xFF, 0xFF, 0xFF, 0xFF]⟩] := by decide +kernel
theorem test_imageRead_miss :
    (after (.imageRead .cp1 32 1) cached).queue.map (fun r => (r.origin, r.state)) = [(.cp1, .inService .a)] := by
  decide +kernel
theorem test_imageWrite : (after (.imageWrite .cp0 254 [[1, 2]]) staged).update.stagingData = [(254, 1), (255, 2)] := by
  decide +kernel
theorem test_imageWrite_of_two_accesses :
    (after (.imageWrite .cp0 254 [[1], [2]]) staged).update.stagingData = [(255, 0x12)] ∧
    (after (.imageWrite .cp0 254 [[1], [2]]) staged).answers = [⟨.cp0, .error .unaligned⟩] := by decide +kernel
theorem test_lock : ((after (.lock .cp0 255) opened).entry 15).holders = PortSet.empty.set .cp0 true := by decide +kernel
theorem test_unlock : ((after (.unlock .cp0 0) cached).entry 0).locked = false := by decide +kernel
theorem test_unlockAll : (after (.unlockAll .cp0 7) cached).holdCount .cp0 = 0 := by decide +kernel
theorem test_preload :
    (after (.preload .cp2 0x80000001) opened).queue.map (fun r => (r.isPreloadOf .cp2, r.isPending)) =
      [(true, false)] := by decide +kernel
theorem test_preloadCancel :
    ((after (.preloadCancel .cp2 0) (after (.preload .cp2 1) opened)).port .cp2).preload.lastStatus = .cancelled := by
  decide +kernel
theorem test_claim : (after (.claim .cp3 0) opened).update.holder = some .cp3 := by decide +kernel
theorem test_claim_starts_timer : (after (.claim .cp3 0) opened).update.grantTimer = some 500000 := by decide +kernel
theorem test_release : (after (.release .cp0 0) staged).update.stagedPage = none := by decide +kernel
theorem test_stageOpen : (after (.stageOpen .cp0 0xFFF00) granted).update.stagedPage = some 0xFFF00 := by decide +kernel
theorem test_program :
    ((after (.program .cp0 0) staged).engine .a).transaction.map (fun x => x.command) = some 0x26 := by decide +kernel
theorem test_erase : (after (.erase .cp0 256) granted).port .cp0 =
    { (granted.port .cp0) with result := ⟨.range, 0x64⟩ } := by decide +kernel
theorem test_dropUnlocked : ((after (.dropUnlocked .cp0 0) cachedGranted).entry 0).valid = 1 := by decide +kernel
theorem test_dropAll : ((after (.dropAll .cp0 0) cachedGranted).entry 0).state = .empty := by decide +kernel
theorem test_linkStop : (after (.linkStop .cp0 0) cachedGranted).link.state = .stopped := by decide +kernel
theorem test_linkStart : (after (.linkStart .cp0 0) (inLink cachedGranted .stopped)).link.state = .bringup := by
  decide +kernel
theorem test_fenceClear :
    ((after (.fenceClear .cp0 0) (onPort opened .cp0 (fun x => { x with fenced := true }))).port .cp0).fenced = false := by
  decide +kernel
theorem test_dirPick : (((after (.dirPick .cp0 0) cached).port .cp0).snapshot.word 0).toNat = 0x1101 := by decide +kernel
theorem test_fenceWrite : ((after (.fenceWrite .cp0 0x1F01) opened).port .cp0).fenceWord = 0x1F01 := by decide +kernel
theorem test_noticeEnableWrite :
    ((after (.noticeEnableWrite .cp0 0x12340703) opened).port .cp0).noticeEnableWord = 0x12340703 := by decide +kernel
theorem test_portSettingsWrite : ((after (.portSettingsWrite .cp0 0xFFFF0FFF) opened).port .cp0).settingsWord = 0x10FFF := by
  decide +kernel
theorem test_alarmsWrite :
    ((after (.alarmsWrite .cp0 0x100) (onPort opened .cp0 (fun x => { x with latched := 3 }))).port .cp0).latched = 2 := by
  decide +kernel
theorem test_noticePendingWrite :
    ((after (.noticePendingWrite .cp0 0x101) (onPort opened .cp0 (fun x => { x with pendingNotices := 3, repeats := 1 }))
      ).port .cp0).noticePendingWord = 2 := by decide +kernel
theorem test_sharedSetupWrite : (after (.sharedSetupWrite .cp0 6 7) granted).setup.grantTimeout = 7 := by decide +kernel
theorem test_sharedSetupWrite_detaches :
    ((after (.sharedSetupWrite .cp0 8 0x10401) granted).port .cp1).attached = false := by decide +kernel
theorem test_controlWriteIgnored : after (.controlWriteIgnored .cp0 0x80 7) opened = { opened with answers := [⟨.cp0, .done⟩] } := by
  decide +kernel
theorem test_controlUnaligned :
    ((after (.controlUnalignedAccess .cp0 0x42 4) opened).port .cp0).lastError.word = 0x20000042 := by decide +kernel
theorem test_portEnChange : ((after (.portEnChange .cp0 false) cached).entry 0).locked = false := by decide +kernel
theorem test_takeAssert : (after .takeAssert cached).link.statusWord = 0x2015 := by decide +kernel
theorem test_takeRelease : (after .takeRelease (after .takeAssert cached)).link.state = .bringup := by decide +kernel
theorem test_hubResetAssert : (after .hubResetAssert filling).queue = [] := by decide +kernel
theorem test_hubResetEnd_registers :
    readControl (after (.hubResetEnd 2) opened) .cp1 0xC0 = some 0x00190232 ∧
    readControl (after (.hubResetEnd 2) opened) .cp1 0xD0 = some 0x26138EA3 ∧
    readControl (after (.hubResetEnd 2) opened) .cp1 0xE8 = some 0x00020401 ∧
    readControl (after (.hubResetEnd 2) opened) .cp1 0x20 = some 0x00000200 := by decide +kernel
theorem test_hubResetEnd : (after (.hubResetEnd 3) filling).link.state = .stopped := by decide +kernel
theorem test_readDeadline : (after (.readDeadline .cp1) filling).answers = [⟨.cp1, .retry⟩] := by decide +kernel
theorem test_grantTimerExpiry :
    (after .grantTimerExpiry { granted with update := { granted.update with grantTimer := some 5 } }).update.holder = none := by
  decide +kernel
theorem test_wakeEnd : ((after (.wakeEnd .a) State.reset).engine .a).wakeTimer = some 100 := by decide +kernel
theorem test_wakeDelayExpiry :
    ((after (.wakeDelayExpiry .a) (after (.wakeEnd .a) State.reset)).engine .a).state = .ident := by decide +kernel
theorem test_identEnd : (after (.identEnd .a 1 2 20) (onEngine (identifying .single) .b (fun x => { x with state := .off }))
    ).link.statusWord = 0x2012 := by decide +kernel
theorem test_identEnd_bad : (after (.identEnd .b 0xFF 0xFF 0xFF) (identifying .mirror)).alarms = 2 := by decide +kernel
theorem test_fillComplete :
    (after (.fillComplete .a ((List.range 32).map (BitVec.ofNat 8))) filling).answers =
      [⟨.cp1, .data [4, 5, 6, 7, 8, 9, 10, 11]⟩] := by decide +kernel
theorem test_fillComplete_frees_a_preload_slot :
    (after (.fillComplete .a ((List.range 32).map (BitVec.ofNat 8))) fillingForVictim).answers =
      [⟨.cp1, .data [4, 5, 6, 7]⟩] := by decide +kernel
theorem test_enableWriteEnd :
    ((after (.enableWriteEnd .a) (operating (operation .program 0 (.one .a) .first) .a .enableWrite)).engine .a
      ).transaction.map (fun x => x.sent.getLast?) = some (some 0x12) := by decide +kernel
theorem test_programPageEnd :
    ((after (.programPageEnd .a) (operating (operation .program 0 (.one .a) .first) .a .programPage)).engine .a
      ).operationTimer = some 5000 := by decide +kernel
theorem test_eraseBlockEnd :
    ((after (.eraseBlockEnd .a) (operating (operation .erase 0 (.one .a) .first) .a .eraseBlock)).engine .a
      ).operationTimer = some 500000 := by decide +kernel
theorem test_pollTimerExpiry :
    ((after (.pollTimerExpiry .a) (operating (operation .erase 0 (.one .a) .first) .a .pollWait)).engine .a).step =
      .readStatus := by decide +kernel
theorem test_readStatusEnd :
    ((after (.readStatusEnd .a 0x20) (operating (operation .erase 0 (.one .a) .first) .a .readStatus)).update.result.word
      ).toNat = 0x01440000 := by decide +kernel
theorem test_readStatusEnd_failed_moves_to_the_lru_end :
    (after (.readStatusEnd .a 0x20) (operating (operation .erase 0 (.one .a) .first) .a .readStatus)).lru.getLast? = some 0 := by
  decide +kernel
theorem test_verifyReadEnd :
    (after (.verifyReadEnd .a verifyData) (operating (operation .program 0 (.one .a) .first) .a (.verify false))
      ).update.result.word.toNat = 0x010A0000 := by decide +kernel
theorem test_operationTimerExpiry :
    (after (.operationTimerExpiry .a) (operating (operation .erase 0 (.one .a) .first) .a .pollWait)).link.state = .down := by
  decide +kernel
theorem test_operationTimerExpiry_takes_one_pass :
    let t := after (.operationTimerExpiry .a) timingOut
    (t.port .cp3).fenced = true ∧ t.readIn .cp0 .waitingFill = true ∧ t.readIn .cp1 .heldVictim = true ∧
      (t.entry 5).tag = some 301 := by decide +kernel
theorem test_fillComplete_sets_the_flags_of_an_unlocked_entry :
    ((after (.fillComplete .a (List.replicate 32 0)) (filling.setEntry 0 (liveEntry 0 1 PortSet.empty))).entry 0).valid = 9 := by
  decide +kernel
theorem test_readStatusEnd_failed_clears_an_unlocked_entry :
    let s := (operating (operation .erase 0 (.one .a) .first) .a .readStatus).setEntry 0 (liveEntry 0 1 PortSet.empty)
    (after (.readStatusEnd .a 0x20) s).entry 0 = liveEntry 0 0 PortSet.empty := by decide +kernel
theorem test_preload_of_a_whole_block_keeps_its_lock :
    (after (.preload .cp1 0x80000000) wholeBlock).entry 0 =
      liveEntry 0 (BitVec.allOnes 128) (PortSet.empty.set .cp1 true) ∧
    (after (.preload .cp1 0x80000000) wholeBlock).lru.head? = some 0 := by decide +kernel
theorem test_unlock_takes_held_reads_again :
    let t := after (.unlock .cp0 0) crowded
    t.readIn .cp1 .waitingFill = true ∧ (t.entry 0).tag = some 200 := by decide +kernel
theorem test_preloadCancel_takes_held_reads_again :
    let t := after (.preloadCancel .cp2 0) (onEngine crowdedPreload .a (fun x => { x with state := .active }))
    t.readIn .cp1 .waitingFill = true ∧ (t.entry 0).tag = some 200 := by decide +kernel
theorem test_readStatusEnd_returns_the_operation_for_B :
    (after (.readStatusEnd .a 0) (mirrored (operation .erase 0 .aThenB .first) .a .readStatus)).queue.map
        (fun r => (r.target, r.state, r.work)) = [(.only .b, .inService .b, .updateOp true)] := by decide +kernel
theorem test_step_runs_the_front :
    step { opened with pending := [.claim .cp3 0, .takeAssert] } =
      exec (.claim .cp3 0) { opened with pending := [.takeAssert] } := rfl

/-! ### States and operands that meet the hypotheses of the obligations

The states of the witnesses of commands and reads are accessible at the port they name, by the lemmas that open this part. -/

theorem accessible_opened (p : Port) : Accessible opened p := by
  unfold Accessible; revert p; exact each_port (by decide +kernel) (by decide +kernel) (by decide +kernel) (by decide +kernel)
theorem accessible_granted (p : Port) : Accessible granted p := by
  unfold Accessible; revert p; exact each_port (by decide +kernel) (by decide +kernel) (by decide +kernel) (by decide +kernel)
theorem accessible_cached (p : Port) : Accessible cached p := by
  unfold Accessible; revert p; exact each_port (by decide +kernel) (by decide +kernel) (by decide +kernel) (by decide +kernel)
theorem accessible_cachedGranted (p : Port) : Accessible cachedGranted p := by
  unfold Accessible; revert p; exact each_port (by decide +kernel) (by decide +kernel) (by decide +kernel) (by decide +kernel)
theorem accessible_staged (p : Port) : Accessible staged p := by
  unfold Accessible; revert p; exact each_port (by decide +kernel) (by decide +kernel) (by decide +kernel) (by decide +kernel)
theorem accessible_inLink {s : State} {p : Port} (state : LinkState) (h : Accessible s p) : Accessible (inLink s state) p := h
theorem accessible_fenced (s : State) (p : Port) (h : Accessible s p) :
    Accessible (onPort s p (fun x => { x with fenced := true })) p := by
  cases p <;> exact h
theorem accessible_preloading : Accessible (after (.preload .cp1 1) opened) .cp0 ∧ Accessible (after (.preload .cp1 1) opened) .cp1 := by
  unfold Accessible; decide +kernel
theorem accessible_filling : Accessible filling .cp0 ∧ Accessible filling .cp2 ∧ ¬ Accessible filling .cp1 := by
  unfold Accessible; decide +kernel
theorem accessible_operating : Accessible (operating (operation .erase 0 (.one .a) .first) .a .pollWait) .cp0 := by
  unfold Accessible; decide +kernel

theorem witness_EmptyQueuePassesOnePeriod :
    ({ State.reset with inReset := true }.pending = []) ∧
    (State.reset.pending = [] ∧ State.reset.inReset = false ∧ State.reset.refclkCount + 1 < State.reset.setup.tbDiv.toNat) ∧
    ({ State.reset with refclkCount := 23 }.refclkCount + 1 < State.reset.setup.tbDiv.toNat) ∧
    (State.reset.setup.tbDiv.toNat ≤ { State.reset with refclkCount := 24 }.refclkCount + 1) := by decide +kernel

theorem witness_ControlAccessesActOnTheirFieldsAlone : Accessible State.reset .cp3 := ⟨rfl, rfl, rfl⟩

theorem witness_RegistersReadAsTheirLayouts :
    ¬ Accessible filling .cp1 ∧ (0x41 : Byte).toNat % 4 ≠ 0 ∧ Accessible cached .cp0 ∧
    (Overall.none, PhaseOutcome.none, PhaseOutcome.none, 0) ∈ outcomeTable ∧ cached.update.result.outcome = .none ∧
    (PreloadStatus.none, 0) ∈ statusTable ∧ (cached.port .cp0).preload.lastStatus = .none ∧
    ((0x3C : Byte).toNat % 4 = 0 ∧ (0x7C : Byte).toNat ≤ 0x7C ∧ (0xBC : Byte).toNat ≤ 0xBC) :=
  ⟨accessible_filling.2.2, by decide, accessible_cached _, by decide, by decide, by decide, by decide, by decide⟩

theorem witness_AccessesWithoutABusAreIgnored :
    (busPort (.lock .cp0 0) = some .cp0 ∧ ¬ Accessible { opened with inReset := true } .cp0) ∧
    ¬ Accessible (onPort opened .cp0 (fun x => { x with attached := false })) .cp0 ∧
    (busPort (.imageRead .cp1 0 1) = some .cp1 ∧ ¬ Accessible filling .cp1) := by
  unfold Accessible; decide +kernel

theorem witness_FenceClearByAlarms :
    Accessible (onPort { opened with alarms := 1 } .cp0 (fun x => { x with autoFence := true, fenced := true })) .cp0 :=
  ⟨rfl, rfl, rfl⟩

theorem witness_LockByChecksInOrder : Accessible opened .cp2 := accessible_opened _

theorem witness_UnlockRemovesTheHolder :
    cached.link.imageSize / 4096 ≤ (256 : Word).toNat ∧
    ((255 : Word).toNat < cached.link.imageSize / 4096 ∧ cached.heldEntry .cp0 (255 : Word).toNat = none) ∧
    ((0 : Word).toNat < cached.link.imageSize / 4096 ∧ cached.heldEntry .cp0 (0 : Word).toNat = some 0) ∧
    filling.named 0 = true ∧ (cached.addHolder 0 .cp2).heldEntry .cp0 (0 : Word).toNat = some 0 ∧
    ((cached.addHolder 0 .cp2).entry 0).holders.get .cp2 = true := by decide +kernel

theorem witness_UnlockAllRemovesEveryHold : Accessible cached .cp0 := accessible_cached _

theorem accessible_crowded : Accessible crowded .cp0 := by unfold Accessible; decide +kernel

/-- The premises of the pass over the HELD_VICTIM reads after an UNLOCK or an UNLOCK ALL. -/
theorem witness_VictimsRetaken :
    LruHoldsEachEntryOnce crowded ∧ PreloadsStand crowded ∧ FreeBut crowded 0 .cp0 ∧
      crowded.heldEntry .cp0 (0 : Word).toNat = some 0 ∧ (crowded.entry 0).holders.get .cp0 = true ∧
      crowded.readIn .cp1 .heldVictim = true ∧ (∀ q, (crowded.port q).preload.running = false) ∧
      crowded.link.state ≠ .stopping :=
  ⟨by unfold LruHoldsEachEntryOnce; decide +kernel,
    each_port (by decide +kernel) (by decide +kernel) (by decide +kernel) (by decide +kernel),
    ⟨by decide +kernel, each_port (by decide +kernel) (by decide +kernel) (by decide +kernel) (by decide +kernel),
      by decide +kernel, by decide +kernel⟩, by decide +kernel, by decide +kernel, by decide +kernel,
    each_port (by decide +kernel) (by decide +kernel) (by decide +kernel) (by decide +kernel), by decide +kernel⟩

/-- The codes of all checks of PRELOAD but the last, on small states. -/
theorem witness_PreloadRefusedByChecksInOrder :
    preloadCheck (onPort opened .cp0 (fun x => { x with fenced := true })) .cp0 256 true = some .fenced ∧
    preloadCheck opened .cp0 256 false = some .range ∧
    preloadCheck (inLink opened .down) .cp0 255 false = some .linkDown ∧
    preloadCheck { opened with update := { granted.update with op := some (operation .erase 255 (.one .a) .first) } } .cp0
      255 false = some .heldForUpdate ∧
    preloadCheck (after (.preload .cp1 1) opened) .cp0 1 false = some .busy ∧
    preloadCheck (after (.preload .cp1 1) opened) .cp1 2 false = some .busy ∧
    preloadCheck { opened with setup := { opened.setup with
      ports := PerPort.all { level := 1, quota := 0, source := .pin, attachBit := true } } } .cp0 1 true = some .quota := by
  decide +kernel

theorem witness_PreloadTakenRuns :
    preloadCheck opened .cp0 ((0x800000FF : Word).extractLsb' 0 31).toNat ((0x800000FF : Word).getLsbD 31) = none ∧
    opened.findBlock 255 = none ∧
    preloadCheck cached .cp1 0 true = none ∧ cached.findBlock 0 = some 0 ∧ (cached.entry 0).allValid = false := by
  decide +kernel

theorem witness_PreloadTakenRuns_cursor :
    (∀ q, q ≠ .cp1 → CursorWaits cached q ∧ ((cached.port q).preload.running = true → (cached.port q).preload.entry ≠ 0)) ∧
    (cached.preloadSlotBusy .cp1 = false ∧ Qualifies cached 0 (cached.entry 0).valid 0 1 ∧
      ¬ Qualifies cached 0 (cached.entry 0).valid 0 0) ∧
    ((after (.preload .cp1 1) opened).port .cp1).preload.running = true ∧ CursorWaits (after (.preload .cp1 1) opened) .cp1 ∧
    (after (.preloadCancel .cp2 0) (after (.preload .cp2 1) opened)).preloadSlotBusy .cp2 = true :=
  ⟨each_port (by unfold CursorWaits Qualifies; decide +kernel) (by unfold CursorWaits Qualifies; decide +kernel)
      (by unfold CursorWaits Qualifies; decide +kernel) (by unfold CursorWaits Qualifies; decide +kernel),
    by unfold Qualifies; decide +kernel, by decide +kernel, by unfold CursorWaits Qualifies; decide +kernel,
    by decide +kernel⟩

theorem witness_PreloadOfAValidBlockEndsAtOnce :
    let s := wholeBlock
    (s.inReset = false ∧ (s.port .cp1).attached = true ∧ (s.port .cp1).read = none) ∧ preloadCheck s .cp1 0 true = none ∧
      s.findBlock 0 = some 0 ∧ (s.entry 0).allValid = true := by decide +kernel

/-- Its entry left locked by the lock flag, and left eligible without it. -/
theorem witness_PreloadOfAValidBlockEndsAtOnce_entry :
    (preloadCheck wholeBlock .cp1 0 false = none ∧ (wholeBlock.entry 0).locked = false ∧ wholeBlock.named 0 = false) ∧
    ({ wholeBlock.entry 0 with
      holders := (wholeBlock.entry 0).holders.set .cp1 true, owner := none } : Entry).locked = true ∧
    LruHoldsEachEntryOnce wholeBlock ∧ PreloadsStand wholeBlock :=
  ⟨by decide +kernel, by decide +kernel, by unfold LruHoldsEachEntryOnce; decide +kernel,
    each_port (by decide +kernel) (by decide +kernel) (by decide +kernel) (by decide +kernel)⟩

theorem witness_PreloadCancelEndsThePreload :
    (opened.port .cp1).preload.running = false ∧ ((after (.preload .cp1 1) opened).port .cp1).preload.running = true ∧
      ((after (.preload .cp1 1) opened).port .cp1).read = none := by decide +kernel

theorem witness_PreloadCancelEndsThePreload_victims :
    Accessible crowdedPreload .cp2 ∧ LruHoldsEachEntryOnce crowdedPreload ∧ PreloadsStand crowdedPreload ∧
    (crowdedPreload.port .cp2).preload.running = true ∧ (crowdedPreload.port .cp2).preload.entry = 0 ∧
    (crowdedPreload.entry 0).state = .live ∧ (crowdedPreload.entry 0).owner = some .cp2 ∧
    (crowdedPreload.entry 0).locked = false ∧
    (∀ r ∈ crowdedPreload.queue, r.names 0 = true → r.isPreloadOf .cp2 = true ∧ r.isPending = true) :=
  ⟨by unfold Accessible; decide +kernel, by unfold LruHoldsEachEntryOnce; decide +kernel,
    each_port (by decide +kernel) (by decide +kernel) (by decide +kernel) (by decide +kernel), by decide +kernel,
    by decide +kernel, by decide +kernel, by decide +kernel, by decide +kernel, by decide +kernel⟩

theorem witness_DirPickTakesASnapshot :
    (15 : Word).toNat = (15 : Fin 16).val ∧ 16 ≤ (16 : Word).toNat ∧ Accessible cached .cp0 :=
  ⟨by decide, by decide, accessible_cached _⟩

theorem witness_ClaimByTable :
    (GrantLaw opened ∧ OrphanedOnlyDuringOperation opened ∧ opened.update.holder = none) ∧
    (GrantLaw staged ∧ OrphanedOnlyDuringOperation staged ∧ staged.update.holder = some .cp0) := by
  unfold GrantLaw OrphanedOnlyDuringOperation; decide +kernel

theorem witness_ReleaseByTable : Accessible staged .cp0 ∧ Holds staged .cp0 ∧ ¬ Holds staged .cp1 :=
  ⟨accessible_staged _, by decide +kernel, by decide +kernel⟩

theorem witness_StageOpenByChecksInOrder : Accessible granted .cp0 ∧ Holds granted .cp0 :=
  ⟨accessible_granted _, by decide +kernel⟩

theorem witness_ImageWriteRefusedByChecksInOrder :
    writeCheck staged .cp1 0 [[1]] = some .notGranted ∧ writeCheck granted .cp0 0 [[1]] = some .notStaged ∧
    writeCheck staged .cp0 2 [[1, 2, 3, 4]] = some .unaligned ∧ writeCheck staged .cp0 0 [[1], [2]] = some .unaligned ∧
    writeCheck staged .cp0 0 [[1, 2], [3, 4]] = some .unaligned ∧ writeCheck staged .cp0 0 [[1, 2, 3]] = some .unaligned ∧
    writeCheck staged .cp0 256 [[1]] = some .stageRange ∧
    writeCheck { staged with update := { staged.update with op := some (operation .program 0 (.one .a) .first) } } .cp0 255 [[1]] =
      some .busy ∧ Accessible staged .cp0 :=
  ⟨by decide +kernel, by decide +kernel, by decide +kernel, by decide +kernel, by decide +kernel, by decide +kernel,
    by decide +kernel, by decide +kernel, accessible_staged _⟩

theorem witness_ImageWriteStagesItsBytes :
    writeCheck staged .cp0 255 [[1]] = none ∧ writeCheck staged .cp0 0 [[1, 2, 3, 4]] = none ∧
    writeCheck staged .cp0 254 [[1, 2]] = none := by
  decide +kernel

theorem witness_UpdateRefusedByChecksInOrder :
    programCheck staged .cp1 = some .notGranted ∧ programCheck granted .cp0 = some .notStaged ∧
    programCheck { staged with link := { staged.link with imageSize := 0 } } .cp0 = some .range ∧
    programCheck (inLink staged .stopped) .cp0 = some .linkDown ∧ eraseCheck granted .cp0 256 = some .range ∧
    eraseCheck (inLink granted .stopping) .cp0 255 = some .linkDown ∧
    eraseCheck (onPort granted .cp0 (fun x => { x with fenced := true })) .cp0 0 = some .fenced := by decide +kernel

theorem witness_ProgramAndEraseAccepted :
    staged.update.stagedPage = some 0 ∧ programCheck staged .cp0 = none ∧ eraseCheck staged .cp0 255 = none := by
  decide +kernel

theorem witness_ProgramAndEraseAccepted_waiter :
    let s := waitsForFill staged 3 .pending
    programCheck s .cp0 = none ∧ (fillOfChunk 3 .pending).isPending = true ∧
    (after (.program .cp0 0) s).fillInTarget
      { kind := .demand, entry := 0, block := 0, first := 3, count := 1, waiters := PortSet.empty.set .cp1 true } = true ∧
    (∀ other ∈ s.queue, other.waiters.get .cp1 = true → other = fillOfChunk 3 .pending) ∧ (s.port .cp1).read.isSome := by
  decide +kernel

/-- A removed fill that leaves its entry eligible, and one that frees the slot of a HELD_VICTIM read. -/
theorem witness_ProgramAndEraseAccepted_victims :
    let s := crowdedFill (leftFill .pending)
    (LruHoldsEachEntryOnce s ∧ programCheck s .cp0 = none ∧ eraseCheck s .cp0 0 = none) ∧
    PreloadsStand (crowdedFill (leftFill .pending)) ∧
    (leftFill .pending ∈ s.queue ∧ (leftFill .pending).isPending = true ∧
      (∃ f, (leftFill .pending).fill = some f ∧ (after (.program .cp0 0) s).fillInTarget f = true) ∧
      (leftFill .pending).isDemandOf .cp1 = true ∧ s.readIn .cp1 .heldVictim = true ∧
      ∀ other ∈ s.queue, other.waiters.get .cp1 = false) ∧
    ((s.entry 0).state = .live ∧ (s.entry 0).locked = false ∧ (s.entry 0).owner = none ∧ s.named 0 = true ∧
      ∀ r ∈ s.queue, r.names 0 = true → r.isPending = true) :=
  ⟨by unfold LruHoldsEachEntryOnce; decide +kernel,
    each_port (by decide +kernel) (by decide +kernel) (by decide +kernel) (by decide +kernel),
    ⟨by decide +kernel, by decide +kernel, ⟨_, rfl, by decide +kernel⟩, by decide +kernel, by decide +kernel,
      by decide +kernel⟩, by decide +kernel⟩

theorem witness_ProgramAndEraseAccepted_queue :
    ∀ q, (staged.port q).preload.running = false ∧ staged.readIn q .heldVictim = false :=
  each_port (by decide +kernel) (by decide +kernel) (by decide +kernel) (by decide +kernel)

theorem witness_EntryDropped_victims :
    let s := crowdedFill (leftFill .pending)
    (∀ r ∈ s.queue, r.names 0 = true → r.isPending = true) ∧
    (∃ r ∈ s.queue, r.names 0 = true ∧ r.isPending = true ∧ r.isDemandOf r.origin = true ∧
      s.readIn r.origin .heldVictim = true) ∧
    ((crowdedPreload.entry 0).owner = some .cp2 ∧ (crowdedPreload.port .cp2).preload.running = true ∧
      Holds crowdedPreload .cp0 ∧ crowdedPreload.update.op = none) := by decide +kernel

theorem witness_EntryDropped :
    (∃ r ∈ filling.queue, r.names 0 = true ∧ r.isPending = false) ∧
    (∀ r ∈ (waitsForFill cachedGranted 3 .pending).queue, r.names 0 = true → r.isPending = true) := by decide +kernel

theorem witness_DropUnlockedEmptiesUnlockedEntries :
    ¬ Holds cachedGranted .cp1 ∧ (Holds cachedGranted .cp0 ∧ cachedGranted.update.op = none) ∧
    (Holds (operating (operation .erase 0 (.one .a) .first) .a .pollWait) .cp0 ∧
      (operating (operation .erase 0 (.one .a) .first) .a .pollWait).update.op.isSome) := by decide +kernel

theorem witness_DropAllEmptiesEveryEntry :
    (Holds cachedGranted .cp0 ∧ cachedGranted.update.op = none) ∧ 0 < cachedGranted.holdCount .cp0 ∧
      cachedGranted.holdCount .cp1 = 0 := by decide +kernel

theorem witness_GrantTimerExpiryEndsTheGrant :
    let s := after (.claim .cp3 0) opened
    s.inReset = false ∧ s.update.grantTimer = some 500000 ∧ s.update.holder = some .cp3 := by decide +kernel

theorem witness_ImageReadAnsweredOrHeldAtArrival_refusals :
    ¬ WellFormedRead 28 2 ∧ WellFormedRead 28 1 ∧ WellFormedRead 0 8 ∧ State.reset.link.state = .bringup ∧
    (opened.link.state ≠ .bringup ∧ opened.link.imageSize ≤ 2 ^ 20) ∧
    ((operating (operation .program 0 (.one .a) .first) .a .pollWait).inTarget 0 7 = true ∧
      (operating (operation .program 0 (.one .a) .first) .a .pollWait).inTarget 0 8 = false) := by
  unfold WellFormedRead; decide +kernel

theorem witness_ImageReadAnsweredOrHeldAtArrival_lookup :
    (ReachesLookup cached 28 ∧ Hit cached 28 0) ∧ (ReachesLookup opened (2 ^ 20 - 4) ∧ Miss opened (2 ^ 20 - 4)) ∧
    (onPort opened .cp0 (fun x => { x with fenced := true }) |>.port .cp0).fenced = true ∧
    (inLink opened .down).link.state ≠ .opened ∧
    (let s := after (.readDeadline .cp1) filling
     Accessible s .cp1 ∧ ReachesLookup s 32 ∧ Miss s 32 ∧ MayFill s .cp1 32 ∧ s.demandSlotBusy .cp1 = true ∧
       s.findBlock 0 = some 0 ∧ s.covered 0 1 = false) := by
  unfold Accessible ReachesLookup Miss Hit MayFill; decide +kernel

theorem witness_ImageReadJoinsTheCoveringRecord :
    (Accessible filling .cp2 ∧ WellFormedRead 96 1 ∧ ReachesLookup filling 96 ∧ Miss filling 96 ∧ MayFill filling .cp2 96) ∧
    filling.findBlock (96 / 4096) = some 0 ∧ filling.queue = [] ++ fillOfChunk 3 (.inService .a) :: [] ∧
    (fillOfChunk 3 (.inService .a)).covers 0 (96 % 4096 / 32) = true := by
  unfold Accessible WellFormedRead ReachesLookup Miss Hit MayFill; decide +kernel

theorem witness_ImageReadCreatesADemandFill :
    (ReachesLookup cached 32 ∧ Miss cached 32 ∧ MayFill cached .cp1 32 ∧ cached.demandSlotBusy .cp1 = false ∧
      cached.findBlock 0 = some 0 ∧ cached.covered 0 1 = false) ∧
    (ReachesLookup opened (2 ^ 20 - 4) ∧ MayFill opened .cp1 (2 ^ 20 - 4) ∧ opened.demandSlotBusy .cp1 = false ∧
      opened.findBlock 255 = none ∧ opened.victim = some 15 ∧ (opened.port .cp1).burst = true ∧ opened.named 15 = false) := by
  unfold ReachesLookup Miss Hit MayFill; decide +kernel

theorem witness_BurstStopsAtTheQuadOrAHeldChunk :
    filling.burstCount 0 1 = 2 ∧ filling.covered 0 3 = true ∧ opened.burstCount 0 0 = 4 ∧ opened.burstCount 0 3 = 1 := by
  decide +kernel

theorem witness_ReadDeadlineAnswersRetry :
    filling.inReset = false ∧ ∃ r, (filling.port .cp1).read = some r ∧ r.deadline = some 9 :=
  ⟨rfl, _, rfl, rfl⟩

theorem witness_SharedSetupWriteRefusedByChecksInOrder :
    ¬ Holds opened .cp0 ∧ (Holds granted .cp0 ∧ (5 : Fin 16).val ≤ 5 ∧ granted.link.state ≠ .stopped) ∧
    ((6 : Fin 16).val ≤ 5 → granted.link.state = .stopped) ∧ setupValueInRange 6 0x100 = false ∧
    setupValueInRange 10 0xD00 = false ∧ setupValueInRange 15 1 = false := by decide +kernel

theorem witness_SharedSetupWordsByTheirFields :
    setupValueInRange 0 0x00010100 = true ∧ setupValueInRange 10 0xC00 = true ∧ setupValueInRange 15 0 = true ∧
      setupValueInRange 0 0x00010103 = false := by decide +kernel

theorem witness_SharedSetupWritePerformed :
    ((0 : Fin 16).val ≤ 5 → (inLink granted .stopped).link.state = .stopped) ∧ setupValueInRange 0 0x00010100 = true ∧
    ((6 : Fin 16).val ≤ 6 ∨ 11 ≤ (6 : Fin 16).val) ∧ setupValueInRange 6 0xFF = true ∧
    ((11 : Fin 16).val ≤ 6 ∨ 11 ≤ (11 : Fin 16).val) ∧ setupValueInRange 11 0 = true ∧ Holds granted .cp0 := by
  decide +kernel

theorem witness_PortSetupWritePerformed :
    (7 : Fin 16).val = 7 + portNumber .cp0 ∧ (10 : Fin 16).val = 7 + portNumber .cp3 ∧
    setupValueInRange 10 0x30C03 = true ∧ (granted.port .cp3).attached = true ∧ setupValueInRange 10 0x10C03 = true := by
  decide +kernel

/-- A port whose attach source is SETUP, with its attach bit 1. -/
def bySetup : State :=
  { opened with setup := { opened.setup with
    ports := PerPort.all { level := 1, quota := 4, source := .setup, attachBit := true } } }

theorem witness_PortEnChangeAttachesOrDetaches :
    (opened.inReset = false ∧ (after .hubResetAssert opened).inReset = true) ∧
    ((bySetup.portSetup .cp0).source = .setup ∧ (bySetup.port .cp0).attached = (bySetup.portSetup .cp0).attachBit) ∧
    ((opened.portSetup .cp0).source = .pin ∧ (opened.port .cp0).attached = true) ∧
    ((onPort opened .cp0 (fun x => { x with attached := false })).port .cp0).attached = false := by decide +kernel

theorem witness_DetachedAtOnce :
    LruHoldsEachEntryOnce crowdedPreload ∧ PreloadsStand crowdedPreload ∧
      (crowdedPreload.port .cp2).preload.running = true ∧ (crowdedPreload.port .cp2).attached = true ∧
      (crowdedPreload.portSetup .cp2).source = .pin :=
  ⟨by unfold LruHoldsEachEntryOnce; decide +kernel,
    each_port (by decide +kernel) (by decide +kernel) (by decide +kernel) (by decide +kernel), by decide +kernel,
    by decide +kernel, by decide +kernel⟩

/-- A running preload that a stop, a takeover or a fault of the channel ends. -/
theorem witness_PreloadEnded :
    (crowdedPreload.port .cp2).preload.running = true ∧ (crowdedPreload.port .cp2).attached = true ∧
      Holds crowdedPreload .cp0 ∧ crowdedPreload.link.state = .opened := by decide +kernel

/-- An alarm that fences a port with a running preload. -/
theorem witness_AlarmRaised :
    timingOut.alarmActive (alarmOf .a) = false ∧ (timingOut.port .cp3).attached = true ∧
      (timingOut.port .cp3).autoFence = true ∧ (timingOut.port .cp3).fenceMask.getLsbD 0 = false ∧
      (timingOut.port .cp3).fenced = false ∧ (timingOut.port .cp3).preload.running = true := by decide +kernel

theorem witness_LinkStopEndsPendingWork :
    ¬ Holds opened .cp0 ∧ (Holds granted .cp0 ∧ granted.link.state = .opened) ∧ (inLink granted .down).link.state = .down ∧
    (∀ r ∈ granted.queue, r.work ≠ .updateOp false) ∧
    (∃ r ∈ [{ operationRecord .pending with work := .updateOp false }], r.work = .updateOp false) := by decide +kernel

theorem witness_AnsweredLinkDown :
    let s := waitsForFill granted 3 .pending
    fillOfChunk 3 .pending ∈ s.queue ∧ (fillOfChunk 3 .pending).waiters.get .cp1 = true ∧ (s.port .cp1).read.isSome := by
  decide +kernel

theorem witness_LinkStartBeginsABringup :
    granted.link.state ≠ .stopped ∧ Holds (inLink granted .stopped) .cp0 ∧ granted.setup.channelEnabled .a = true ∧
    granted.link.firstBringupDone = true ∧ (∀ c ∈ [Channel.a, .b],
      { granted.setup with enableA := false, enableB := false }.channelEnabled c = false) := by decide +kernel

theorem witness_TakeAssertRelinquishesTheLink :
    (inLink opened .relinquished).link.state = .relinquished ∧
    (filling.inReset = false ∧ filling.link.state ≠ .relinquished) ∧
    (operating (operation .erase 0 (.one .a) .first) .a .pollWait).update.op.isSome ∧ opened.update.op = none := by
  decide +kernel

theorem witness_TakeReleaseBringsTheLinkBack :
    opened.link.state ≠ .relinquished ∧
    ((after .takeAssert opened).link.state = .relinquished ∧ (after .takeAssert opened).link.takeoverStopped = false) ∧
    (after .takeAssert (inLink opened .stopped)).link.takeoverStopped = true := by decide +kernel

theorem witness_HubResetAssertDiscardsWork :
    (after .hubResetAssert opened).inReset = true ∧ Instr.grantTimerExpiry ∉ [Instr.takeAssert, .takeRelease, .hubResetAssert] := by
  decide +kernel

theorem witness_HubResetEndTakesResetValues :
    opened.link.takeLine = false ∧ (after .takeAssert opened).link.takeLine = true ∧ (3 : BitVec 2) ≠ 2 := by decide +kernel

theorem witness_WakeLeadsToIdent :
    (State.reset.inReset = false ∧ (State.reset.engine .a).state = .waking ∧ (State.reset.engine .a).step = .wake ∧
      State.reset.setup.wakeDelay ≠ 0) ∧ { State.reset.setup with wakeDelay := 0 }.wakeDelay = 0 ∧
    (((after (.wakeEnd .a) State.reset).engine .a).wakeTimer = some 100 ∧
      ((after (.wakeEnd .a) State.reset).engine .a).step = .wakeDelay) := by decide +kernel

theorem witness_IdentEndJudgesTheIdentity :
    (BringupHasNoImage (identifying .mirror) ∧ (identifying .mirror).link.state = .bringup ∧
      ((identifying .mirror).engine .a).state = .ident ∧ ((identifying .mirror).engine .a).step = .ident ∧
      Identifying ((identifying .mirror).engine .b)) ∧ IdentityBad 0 0 19 ∧ ¬ IdentityBad 0 0 20 ∧ ¬ IdentityBad 0 0 24 ∧
      IdentityBad 0 0 25 := by
  refine ⟨⟨fun _ => ⟨rfl, rfl, each_channel (by decide) (by decide)⟩, rfl, rfl, rfl, .inr rfl⟩, ?_⟩
  unfold IdentityBad; decide +kernel

theorem witness_BringupEndsByTable :
    let s := onEngine (identifying .mirror) .b (fun x => { x with state := .fault, step := .rest })
    BringupHasNoImage s ∧ s.link.state = .bringup ∧ (s.engine .a).state = .ident ∧ (s.engine .a).step = .ident ∧
      ¬ Identifying (s.engine .b) := by
  refine ⟨fun _ => ⟨rfl, rfl, each_channel (by decide) (by decide)⟩, rfl, rfl, rfl, ?_⟩
  unfold Identifying; decide +kernel

theorem witness_FillCompleteStoresAndAnswers :
    (filling.inReset = false ∧ filling.queue = [] ++ fillOfChunk 3 (.inService .a) :: [] ∧
      (filling.engine .a).state = .active ∧ (filling.engine .a).step = .fillRead ∧
      (List.replicate 32 (0 : Byte)).length = 1 * 32) ∧
    ((filling.entry 0).state = .live ∧ (filling.entry 0).locked = true) ∧ (filling.port .cp1).read.isSome ∧
    (filling.setEntry 0 { Entry.cleared with state := .draining } |>.entry 0).state ≠ .live := by decide +kernel

theorem witness_FillCompleteStoresAndAnswers_alone :
    filling.queue = [fillOfChunk 3 (.inService .a)] ∧
      ∀ q, (filling.port q).preload.running = false ∧ filling.readIn q .heldVictim = false :=
  ⟨by decide +kernel,
    each_port (by decide +kernel) (by decide +kernel) (by decide +kernel) (by decide +kernel)⟩

theorem witness_FillCompleteStoresAndAnswers_victim :
    let s := fillingForVictim
    s.queue.any (fun r => r.state == .inService .a && r.origin == .cp1 && !r.waiters.get .cp1) = true ∧
    s.readIn .cp1 .heldVictim = true ∧ (s.entry 0).state = .live ∧ (s.entry 0).locked = true ∧
    s.findBlock (100 / 4096) = some 0 ∧ 3 ≤ 100 % 4096 / 32 ∧ 100 % 4096 / 32 < 3 + 1 ∧ ReachesLookup s 100 := by
  unfold ReachesLookup; decide +kernel

theorem witness_FillCompleteStoresAndAnswers_drain :
    let s := filling.setEntry 0 { Entry.cleared with state := .draining }
    (s.entry 0).state = .draining ∧ (∀ x ∈ s.queue, x.state ≠ .inService .a → x.names 0 = false) ∧
      ∃ x ∈ fillOfChunk 1 .pending :: s.queue, x.state ≠ .inService .a ∧ x.names 0 = true := by decide +kernel

/-- A fill that frees its entry or the slot of a HELD_VICTIM read, and one that ends a drain. -/
theorem witness_FillCompleteStoresAndAnswers_frees :
    let s := crowdedFill (leftFill (.inService .a))
    LruHoldsEachEntryOnce s ∧ PreloadsStand (crowdedFill (leftFill (.inService .a))) ∧
    (s.readIn (leftFill (.inService .a)).origin .heldVictim = true ∧ (leftFill (.inService .a)).waiters.get .cp1 = false) ∧
    ((s.entry 0).state = .live ∧ (s.entry 0).locked = false ∧ (s.entry 0).owner = none ∧
      ∀ x ∈ s.queue, x.state ≠ .inService .a → x.names 0 = false) :=
  ⟨by unfold LruHoldsEachEntryOnce; decide +kernel,
    each_port (by decide +kernel) (by decide +kernel) (by decide +kernel) (by decide +kernel), by decide +kernel,
    by decide +kernel⟩

/-- The last chunk of an entry that a preload fills. -/
theorem witness_FillCompleteStoresAndAnswers_preload :
    let s := crowdedPreload.setEntry 0 { liveEntry 0 (~~~ (BitVec.twoPow 128 3)) PortSet.empty with owner := some .cp2 }
    (s.entry 0).state = .live ∧ (s.entry 0).owner = some .cp2 ∧ (s.port .cp2).preload.entry = 0 ∧
      (s.port .cp2).preload.running = true ∧ (s.entry 0).allValid = false ∧
      ∀ chunk : Fin 128, (s.entry 0).valid.getLsbD chunk = true ∨ (3 ≤ chunk.val ∧ chunk.val < 3 + 1) := by
  decide +kernel

theorem witness_ProgramAndErasePhaseSteps :
    let s := operating (operation .program 0 (.one .a) .first) .a .readStatus
    s.inReset = false ∧ s.update.op = some (operation .program 0 (.one .a) .first) ∧ (s.engine .a).state = .active ∧
      (s.engine .a).step = .readStatus ∧ (1 : Byte).getLsbD s.setup.busyPosition.toNat = true ∧
      (0 : Byte).getLsbD s.setup.busyPosition.toNat = false ∧ (s.engine .a).pollTimer = some 30 := by decide +kernel

theorem witness_SinglePhaseEndsTheOperation_verify :
    PhaseEnds (operating (operation .program 0 (.one .a) .first) .a (.verify false)) .a
      (operation .program 0 (.one .a) .first) (.verifyReadEnd .a verifyData) .ok verifyData :=
  ⟨by decide +kernel, by decide +kernel, by decide +kernel,
    .inl ⟨false, rfl, by decide +kernel, by decide +kernel, by decide +kernel⟩⟩

theorem witness_SinglePhaseEndsTheOperation_status :
    PhaseEnds (operating (operation .erase 0 (.one .a) .first) .a .readStatus) .a
      (operation .erase 0 (.one .a) .first) (.readStatusEnd .a 0x20) .flashFail [] :=
  ⟨by decide +kernel, by decide +kernel, by decide +kernel,
    .inr (.inl ⟨0x20, rfl, by decide +kernel, rfl, rfl, by decide +kernel, by decide +kernel⟩)⟩

theorem witness_SinglePhaseEndsTheOperation_timeout :
    PhaseEnds (operating (operation .erase 0 (.one .a) .first) .a .pollWait) .a
      (operation .erase 0 (.one .a) .first) (.operationTimerExpiry .a) .timeout [] ∧
    (operating (operation .erase 0 (.one .a) .first) .a .pollWait).findBlock 0 = some 0 ∧
    ((operating (operation .erase 0 (.one .a) .first) .a .pollWait).entry 0).locked = true :=
  ⟨⟨by decide +kernel, by decide +kernel, by decide +kernel,
    .inr (.inr ⟨rfl, by decide +kernel, rfl, rfl⟩)⟩, by decide +kernel, by decide +kernel⟩

/-- A chunk before the page and one behind it, and an entry that is not the target's. -/
theorem witness_FlagsKeptOutside :
    let op := operation .program 256 (.one .a) .first
    op.kind = .program ∧ 7 < op.target % 4096 / 32 ∧ op.target % 4096 / 32 + 8 ≤ 16 ∧
      (operating op .a (.verify false)).findBlock (targetBlock op) ≠ some 1 := by decide +kernel

theorem witness_StoreKeptOutside :
    (operating (operation .erase 5 (.one .a) .first) .a .pollWait).findBlock (targetBlock (operation .erase 5 (.one .a) .first)) =
      none ∧
    (operating (operation .program 256 (.one .a) .first) .a .pollWait).findBlock
      (targetBlock (operation .program 256 (.one .a) .first)) = some 0 := by decide +kernel

theorem witness_MirrorPhasesByTheirOutcomes_queued :
    ∃ r ∈ (mirrored (operation .program 0 .aThenB .first) .a (.verify false)).queue, r.isUpdateOp = true := by
  decide +kernel

theorem witness_MirrorPhasesByTheirOutcomes_first :
    PhaseEnds (mirrored (operation .program 0 .aThenB .first) .a (.verify false)) .a
      (operation .program 0 .aThenB .first) (.verifyReadEnd .a verifyData) .ok verifyData ∧
    PhaseEnds (mirrored (operation .program 0 .aThenB .first) .a (.verify true)) .a
      (operation .program 0 .aThenB .first) (.verifyReadEnd .a verifyData) .flashFail verifyData :=
  ⟨⟨by decide +kernel, by decide +kernel, by decide +kernel,
    .inl ⟨false, rfl, by decide +kernel, by decide +kernel, by decide +kernel⟩⟩,
   ⟨by decide +kernel, by decide +kernel, by decide +kernel,
    .inl ⟨true, rfl, by decide +kernel, by decide +kernel, by decide +kernel⟩⟩⟩

theorem witness_MirrorPhasesByTheirOutcomes_second :
    PhaseEnds (mirrored (operation .erase 0 .aThenB .second) .b .pollWait) .b
      (operation .erase 0 .aThenB .second) (.operationTimerExpiry .b) .timeout [] ∧
    PhaseEnds (mirrored (operation .erase 0 .aThenB .second) .b .readStatus) .b
      (operation .erase 0 .aThenB .second) (.readStatusEnd .b 0) .ok [] ∧
    (mirrored (operation .erase 0 .aThenB .second) .b .pollWait).link.mode = some .mirror :=
  ⟨⟨by decide +kernel, by decide +kernel, by decide +kernel, .inr (.inr ⟨rfl, by decide +kernel, rfl, rfl⟩)⟩,
   ⟨by decide +kernel, by decide +kernel, by decide +kernel,
    .inr (.inl ⟨0, rfl, by decide +kernel, rfl, rfl, by decide +kernel, by decide +kernel⟩)⟩, by decide +kernel⟩

/-- The premises of the queue after the first phase, of the pass of a degradation and of the cursors. -/
theorem witness_MirrorPhasesByTheirOutcomes_laws :
    let s := mirrored (operation .program 0 .aThenB .first) .a (.verify false)
    (∀ q, CursorWaits s q) ∧ LruHoldsEachEntryOnce s ∧ PreloadsStand s :=
  ⟨each_port (by unfold CursorWaits Qualifies; decide +kernel) (by unfold CursorWaits Qualifies; decide +kernel)
      (by unfold CursorWaits Qualifies; decide +kernel) (by unfold CursorWaits Qualifies; decide +kernel),
    by unfold LruHoldsEachEntryOnce; decide +kernel,
    each_port (by decide +kernel) (by decide +kernel) (by decide +kernel) (by decide +kernel)⟩

/-- In SPLIT with B serving, port 1 waits for a pending fill of A, and port 2 runs a preload of A. -/
theorem witness_OperationTimeoutFaultsTheChannel_removals :
    let s := onPort { waitsForFill (splitOperating .idle) 3 .pending with link := (splitOperating .idle).link } .cp2
      (fun x => { x with preload := { x.preload with running := true, block := 0, entry := 0 } })
    let s := s.setEntry 0 { liveEntry 0 1 PortSet.empty with owner := some .cp2 }
    (s.link.mode.isSome ∧ s.link.mode ≠ some .mirror ∧ (s.engine .b).state = .idle) ∧
    (IdentitiesJudged s ∧ LruHoldsEachEntryOnce s ∧ PreloadsStand s) ∧
    (fillOfChunk 3 .pending ∈ s.queue ∧ (fillOfChunk 3 .pending).target = .only .a ∧
      ∀ q, (fillOfChunk 3 .pending).waiters.get q = true → s.readIn q .waitingFill = true) ∧
    (s.port .cp2).preload.running = true ∧
    ((after (.operationTimerExpiry .a) s).port .cp2).fenced = (s.port .cp2).fenced ∧
    (after (.operationTimerExpiry .a) s).hasUsableChannel ((s.port .cp2).preload.block * 4096) = false :=
  ⟨by decide +kernel,
    ⟨⟨by decide +kernel, each_channel (by decide +kernel) (by decide +kernel)⟩,
      by unfold LruHoldsEachEntryOnce; decide +kernel,
      each_port (by decide +kernel) (by decide +kernel) (by decide +kernel) (by decide +kernel)⟩,
    ⟨by decide +kernel, by decide +kernel,
      each_port (by decide +kernel) (by decide +kernel) (by decide +kernel) (by decide +kernel)⟩,
    by decide +kernel, by decide +kernel, by decide +kernel⟩

theorem witness_OperationTimeoutFaultsTheChannel :
    (let s := operating (operation .erase 0 (.one .a) .first) .a .pollWait
     s.inReset = false ∧ (s.engine .a).state = .active ∧ (s.engine .a).operationTimer = some 40 ∧ s.link.state = .opened ∧
       s.link.mode = some .singleA) ∧
    ((splitOperating .fault).link.mode = some .split ∧ ((splitOperating .fault).engine .b).state ≠ .idle ∧
      ((splitOperating .fault).engine .b).state ≠ .active) ∧
    ((splitOperating .idle).engine .b).state = .idle ∧
    (∀ op ∈ (splitOperating .idle).update.op, op.phases ≠ .aThenB) := by decide +kernel

theorem witness_StrayFlashEventsChangeNothing :
    ¬ ((opened.engine .a).state = .waking ∧ (opened.engine .a).step = .wake) ∧ (opened.engine .a).state ≠ .waking ∧
    ¬ ((opened.engine .a).state = .ident ∧ (opened.engine .a).step = .ident) ∧ (opened.engine .a).state ≠ .active ∧
    (opened.port .cp0).read = none ∧ opened.update.grantTimer = none := by decide +kernel

/-- An ACTIVE engine that stands at another step, or whose READ asked for another number of bytes. -/
theorem witness_StrayFlashEventsChangeNothing_active :
    (let s := operating (operation .erase 0 (.one .a) .first) .a .pollWait
     (s.engine .a).state = .active ∧ (s.engine .a).step ≠ .fillRead ∧ (s.engine .a).step ≠ .enableWrite ∧
       (s.engine .a).step ≠ .programPage ∧ (s.engine .a).step ≠ .eraseBlock ∧ (s.engine .a).step ≠ .readStatus ∧
       ∀ failFlag, (s.engine .a).step ≠ .verify failFlag) ∧
    ((filling.engine .a).step ≠ .pollWait ∧ (filling.engine .a).operationTimer = none ∧
      ∀ r ∈ filling.queue, r.state = .inService .a → ∀ f ∈ r.fill, ([0] : List Byte).length ≠ f.count * 32) ∧
    (∃ r, (fillingForVictim.port .cp1).read = some r ∧ r.deadline = none) :=
  ⟨by decide +kernel, by decide +kernel, _, rfl, rfl⟩

theorem witness_LookupVictimAndChannels : LruHoldsEachEntryOnce cached ∧ TagsUnique cached := by
  unfold LruHoldsEachEntryOnce TagsUnique; decide +kernel

/-- The order that the drops and the end of an operation leave starts from a lawful one. -/
theorem witness_LruLeft :
    LruHoldsEachEntryOnce cachedGranted ∧ LruHoldsEachEntryOnce (operating (operation .erase 0 (.one .a) .first) .a .pollWait) := by
  unfold LruHoldsEachEntryOnce; decide +kernel

theorem witness_DispatchServesTheHighestRanked_none :
    ∀ c ∈ [Channel.a, .b], ∀ r ∈ filling.queue, filling.eligibleFor c r = false := by decide +kernel

theorem witness_DispatchServesTheHighestRanked :
    ∃ c, ∃ r ∈ (waitsForFill cached 1 .pending).queue, (waitsForFill cached 1 .pending).eligibleFor c r = true :=
  ⟨.a, fillOfChunk 1 .pending, by decide +kernel, by decide +kernel⟩

theorem witness_NoticesAndTheirVector :
    (opened.port .cp0).attached = true ∧ (opened.port .cp0).pendingNotices.getLsbD Notice.linkReady.number = false ∧
    ((opened.raise .cp0 .linkReady).port .cp0).pendingNotices.getLsbD Notice.linkReady.number = true ∧
    (let x := onPort (opened.raise .cp0 .linkReady) .cp0 (fun x => { x with enables := 0x80, vectorShift := 7 })
     (x.port .cp0).enables.getLsbD 7 = true ∧
       ∀ j < 7, (x.port .cp0).pendingNotices.getLsbD j = false ∨ (x.port .cp0).enables.getLsbD j = false) ∧
    (∀ k < 8, (opened.port .cp0).pendingNotices.getLsbD k = false ∨ (opened.port .cp0).enables.getLsbD k = false) := by
  decide +kernel

theorem witness_EachKindOfStateHasItsCommands :
    ∃ t, exec .takeAssert filling = .next t ∧ (∀ straps, Instr.takeAssert ≠ .hubResetEnd straps) ∧
      (∀ p index w, Instr.takeAssert ≠ .sharedSetupWrite p index w) ∧ Instr.takeAssert ≠ .hubResetAssert :=
  ⟨_, rfl, (fun _ h => nomatch h), (fun _ _ _ h => nomatch h), fun h => nomatch h⟩

/-- A read that stays outstanding, and the premises of the law that none is stranded. -/
theorem witness_EachKindOfStateHasItsCommands_reads :
    (∃ x y, (filling.port .cp1).read = some x ∧ ((after (.claim .cp0 0) filling).port .cp1).read = some y) ∧
      AloneInService filling (.fillComplete .a (List.replicate 32 0)) ∧ NoReadStranded filling :=
  ⟨⟨_, _, rfl, rfl⟩,
    fun c data h => by cases h; decide +kernel,
    each_port (by decide +kernel) (by decide +kernel) (by decide +kernel) (by decide +kernel)⟩

theorem witness_laws_before_a_step :
    (BuffersCanonical staged ∧ LruHoldsEachEntryOnce filling ∧ TagsUnique filling ∧ LocksWithinLimit filling) ∧
    (filling.update.op = none ∧ ∀ r ∈ filling.queue, r.isUpdateOp = false) ∧ GrantLaw staged ∧
    OrphanedOnlyDuringOperation staged ∧ (∃ t, step staged = .next t) ∧ ∃ t, step filling = .next t :=
  ⟨by unfold BuffersCanonical LruHoldsEachEntryOnce TagsUnique LocksWithinLimit; decide +kernel, by decide +kernel,
    by unfold GrantLaw; decide +kernel, by unfold OrphanedOnlyDuringOperation; decide +kernel, ⟨_, rfl⟩, ⟨_, rfl⟩⟩

theorem witness_laws_before_a_step_of_each_port :
    SharesKept filling ∧ SetupInRange staged ∧ BringupHasNoImage State.reset ∧ AttachedAsConditioned staged ∧
      PreloadsStand crowdedPreload ∧ IdentitiesJudged (splitOperating .idle) ∧ BringupHasNoImage (splitOperating .idle) :=
  ⟨⟨each_port (by decide +kernel) (by decide +kernel) (by decide +kernel) (by decide +kernel), by decide +kernel⟩,
    ⟨by decide +kernel, by decide +kernel, by decide +kernel, by decide +kernel, by decide +kernel,
      each_port (by decide +kernel) (by decide +kernel) (by decide +kernel) (by decide +kernel)⟩,
    (fun _ => ⟨rfl, rfl, each_channel (by decide) (by decide)⟩),
    fun _ => each_port (by decide +kernel) (by decide +kernel) (by decide +kernel) (by decide +kernel),
    each_port (by decide +kernel) (by decide +kernel) (by decide +kernel) (by decide +kernel),
    ⟨by decide +kernel, each_channel (by decide +kernel) (by decide +kernel)⟩, fun h => nomatch h⟩

end Sys2Proof.Tests
end

section
/-! SUPPORT. Commands at a port that can present an access end as `finished` says (R166, R167); DIR PICK (R37, R38). -/

namespace Sys2Proof.Proofs.BlockDirectory

open Sys2Proof.Machine Sys2Proof.Claims

/-! ### Any command at a port that can present an access -/

theorem busFree_iff {s : State} {p : Port} : s.busFree p = true ↔ Accessible s p := by
  simp [State.busFree, Accessible, and_assoc]

/-- R126: the timer restarts for the holder while no operation exists, and stands otherwise. -/
theorem touchGrant_eq_timerAfter (s : State) (p : Port) :
    s.touchGrant p = { s with update := { s.update with grantTimer := timerAfter s p } } := by
  by_cases holds : s.isHolder p = true
  · obtain ⟨holder, orphaned⟩ := isHolder_iff.1 holds
    by_cases idle : s.update.op = none
    · simp [State.touchGrant, State.restartGrantTimer, timerAfter, Config.tenMs, holds, holder, orphaned, idle]
    · simp [State.touchGrant, State.restartGrantTimer, timerAfter, holds, idle]
  · have notHolder : ¬ (s.update.holder = some p ∧ s.update.orphaned = false ∧ s.update.op = none) :=
      fun ⟨holder, orphaned, _⟩ => holds (isHolder_iff.2 ⟨holder, orphaned⟩)
    simp [State.touchGrant, timerAfter, holds, notHolder]

/-- R166, R167: RESULT, the grant timer and the answer DONE follow the effect of the command, whatever it is. -/
theorem command_eq_finished {s : State} {p : Port} (acc : Accessible s p) (offset : Byte)
    (effect : State → State × ResultCode) :
    command offset p effect s = .next (finished (effect s.quiet).1 p (effect s.quiet).2 offset) := by
  simp only [command, if_pos (busFree_iff.2 acc), touchGrant_eq_timerAfter]
  rfl

/-! ### DIR PICK -/

/-- R37: the answers of an earlier event are no part of what the snapshot shows. -/
@[simp] theorem snapshotOf_quiet (s : State) (e : Fin 16) : s.quiet.snapshotOf e = s.snapshotOf e := rfl

theorem dirPick_of_index {s : State} {p : Port} {w : Word} (acc : Accessible s p) (e : Fin 16)
    (index : w.toNat = e.val) :
    exec (.dirPick p w) s =
      .next (finished (s.quiet.setPort p { s.port p with snapshot := s.snapshotOf e }) p .ok 0x7C) := by
  have inRange : operandNumber w < 16 := index.trans_lt e.isLt
  have picked : (⟨operandNumber w, inRange⟩ : Fin 16) = e := Fin.ext index
  calc exec (.dirPick p w) s = execDirPick p w s := rfl
    _ = _ := by
      rw [execDirPick, command_eq_finished acc, dif_pos inRange, picked, snapshotOf_quiet]
      rfl

theorem dirPick_out_of_range {s : State} {p : Port} {w : Word} (acc : Accessible s p) (range : 16 ≤ w.toNat) :
    exec (.dirPick p w) s = .next (refused s p .range 0x7C) := by
  have notInRange : ¬ operandNumber w < 16 := Nat.not_lt.2 range
  calc exec (.dirPick p w) s = execDirPick p w s := rfl
    _ = _ := by
      rw [execDirPick, command_eq_finished acc, dif_neg notInRange]
      rfl

/-- Settles O15: an index names an entry, whose snapshot is R38's row of fields; any other word is refused RANGE. -/
theorem dirPickTakesASnapshot : Obligations.DirPickTakesASnapshot := by
  intro p w s acc
  constructor
  · intro e index
    exact dirPick_of_index acc e index
  · intro range
    exact dirPick_out_of_range acc range

end Sys2Proof.Proofs.BlockDirectory
end

section
/-! SUPPORT. LOCK (R65): what its checks and its effect are, and the whole next state. -/

namespace Sys2Proof.Proofs.Locks

open Sys2Proof.Machine Sys2Proof.Claims Sys2Proof.Proofs.BlockDirectory

/-! ### The checks of LOCK -/

theorem blockInRange_iff {s : State} {block : Nat} :
    s.blockInRange block = true ↔ ¬ s.link.imageSize / 4096 ≤ block :=
  decide_eq_true_iff.trans Nat.not_le.symm

theorem eraseTargets_eq_any (s : State) (block : Nat) :
    s.eraseTargets block = s.update.op.any (fun op => op.kind == .erase && op.target == block) := by
  cases operation : s.update.op <;> simp [State.eraseTargets, operation]

theorem atQuota_iff {s : State} {p : Port} : s.atQuota p = true ↔ (s.portSetup p).quota.toNat ≤ s.holdCount p :=
  decide_eq_true_iff

theorem lockedFull_iff {s : State} : s.lockedFull = true ↔ 12 ≤ s.lockedCount := decide_eq_true_iff

/-- R25: the answers of an earlier event are no part of what the victim depends on. -/
@[simp] theorem victim_quiet (s : State) : s.quiet.victim = s.victim := rfl

/-! ### The effect of LOCK -/

theorem lock_of_out_of_range {s : State} {block : Nat} (p : Port) (range : s.link.imageSize / 4096 ≤ block) :
    s.lock p block = (s, .range) := by
  have outOfRange : ¬ s.blockInRange block = true := fun inRange => blockInRange_iff.1 inRange range
  simp [State.lock, outOfRange]

theorem lock_of_erase_target {s : State} {block : Nat} (p : Port) (range : ¬ s.link.imageSize / 4096 ≤ block)
    (target : s.eraseTargets block = true) : s.lock p block = (s, .heldForUpdate) := by
  simp [State.lock, blockInRange_iff.2 range, target]

/-- Checks 3 to 6, for a present block. -/
theorem lock_of_present {s : State} {block : Nat} {e : Fin 16} (p : Port)
    (range : ¬ s.link.imageSize / 4096 ≤ block) (target : ¬ s.eraseTargets block = true)
    (found : s.findBlock block = some e) :
    s.lock p block =
      if (s.entry e).holders.get p then (s.moveToMru e, .ok)
      else if (s.portSetup p).quota.toNat ≤ s.holdCount p then (s, .quota)
      else if (s.entry e).locked then ((s.addHolder e p).moveToMru e, .ok)
      else if 12 ≤ s.lockedCount then (s, .full)
      else ((s.addHolder e p).moveToMru e, .ok) := by
  simp [State.lock, blockInRange_iff.2 range, target, found, atQuota_iff, lockedFull_iff]

/-- Checks 4 and 7, for an absent block. -/
theorem lock_of_absent {s : State} {block : Nat} (p : Port)
    (range : ¬ s.link.imageSize / 4096 ≤ block) (target : ¬ s.eraseTargets block = true)
    (absent : s.findBlock block = none) :
    s.lock p block =
      if (s.portSetup p).quota.toNat ≤ s.holdCount p then (s, .quota)
      else if 12 ≤ s.lockedCount then (s, .full)
      else s.victim.elim (s, .noEntry) (fun e => ((s.allocate e block).addHolder e p, .ok)) := by
  cases victim : s.victim <;>
    simp [State.lock, blockInRange_iff.2 range, target, absent, atQuota_iff, lockedFull_iff, victim]

/-- R26, R66: the victim of a LOCK is allocated with the port as its sole holder. -/
theorem allocate_addHolder (s : State) (e : Fin 16) (block : Nat) (p : Port) :
    (s.allocate e block).addHolder e p =
      { s with
        entries := s.entries.set e
          { state := .live, tag := some block, valid := 0, holders := (PerPort.all false).set p true, owner := none }
        lru := e :: s.lru.erase e } := by
  have allocated : (s.allocate e block).entry e =
      { state := .live, tag := some block, valid := 0, holders := .empty, owner := none } := setEntry_entry_same s e _
  rw [State.addHolder, allocated]
  simp [State.allocate, State.setEntry, State.moveToMru, PortSet.empty]

/-! ### The whole next state -/

/-- A check that decides the effect of a command decides its next state. -/
theorem finished_ite {c : Prop} [Decidable c] (x y : State × ResultCode) (p : Port) (offset : Byte) :
    finished (if c then x else y).1 p (if c then x else y).2 offset =
      if c then finished x.1 p x.2 offset else finished y.1 p y.2 offset :=
  apply_ite (fun r => finished r.1 p r.2 offset) c x y

theorem exec_lock {s : State} {p : Port} (acc : Accessible s p) (w : Word) :
    exec (.lock p w) s = .next (finished (s.quiet.lock p w.toNat).1 p (s.quiet.lock p w.toNat).2 0x40) := by
  calc exec (.lock p w) s = execLock p w s := rfl
    _ = _ := by rw [execLock, command_eq_finished acc, operandNumber]

/-- Settles O8: the checks in order, each with the next state it leaves. -/
theorem lockByChecksInOrder : Obligations.LockByChecksInOrder := by
  intro p w s acc
  rw [exec_lock acc, ← eraseTargets_eq_any]
  by_cases range : s.link.imageSize / 4096 ≤ w.toNat
  · rw [if_pos range, lock_of_out_of_range (s := s.quiet) p range]
    rfl
  by_cases target : s.eraseTargets w.toNat = true
  · rw [if_neg range, if_pos target, lock_of_erase_target (s := s.quiet) p range target]
    rfl
  rw [if_neg range, if_neg target]
  cases found : s.findBlock w.toNat with
  | some e =>
    rw [lock_of_present (s := s.quiet) p range target found]
    simp only [finished_ite]
    rfl
  | none =>
    rw [lock_of_absent (s := s.quiet) p range target found, victim_quiet]
    simp only [finished_ite]
    cases s.victim with
    | none => rfl
    | some e =>
      simp only [Option.elim_some, allocate_addHolder]
      rfl

end Sys2Proof.Proofs.Locks
end

section
/-! SUPPORT. What an event can do to the directory and the notices while the hub has no image: no read gets an entry, nothing
is dispatched, an entry keeps all but its preload owner or is lost, and a pending notice stays pending. -/

namespace Sys2Proof.Proofs.Imageless

open Sys2Proof.Machine

/-- R10: no mode in effect and no image, as from the begin of a bring-up to its end and in DOWN. -/
def NoImage (s : State) : Prop := s.link.mode = none ∧ s.link.imageSize = 0

theorem NoImage.concluded {s t : State} (h : NoImage s) (k : Concluded s t) : NoImage t := by
  unfold NoImage
  rw [k.link]
  exact h

/-! ### What fades -/

/-- R34: the entry holds no block, no chunk and no lock. -/
def EntryLost (x : Entry) : Prop := x.state ≠ .live ∧ x.tag = none ∧ x.valid = 0 ∧ x.locked = false

/-- An entry keeps all but its preload owner, or is lost. -/
def EntryFades (x y : Entry) : Prop := y = { x with owner := y.owner } ∨ EntryLost y

theorem EntryFades.refl (x : Entry) : EntryFades x x := Or.inl rfl

theorem EntryFades.trans {x y z : Entry} (h : EntryFades x y) (k : EntryFades y z) : EntryFades x z := by
  rcases k with kept | lost
  · rcases h with keptBefore | lostBefore
    · exact Or.inl (by rw [kept, keptBefore])
    · rw [kept]
      exact Or.inr lostBefore
  · exact Or.inr lost

/-- R35: a LIVE entry that fades to one that is not LIVE is lost. -/
theorem EntryFades.lost {x y : Entry} (h : EntryFades x y) (live : x.state = .live) (dropped : y.state ≠ .live) :
    EntryLost y := by
  rcases h with kept | lost
  · rw [kept] at dropped
    exact absurd live dropped
  · exact lost

/-- What a step of an event does while the hub has no image: that of the end of an event, with every entry kept or lost and
every pending notice still pending. -/
structure Fades (s t : State) : Prop extends Concluded s t where
  entries : ∀ e, EntryFades (s.entry e) (t.entry e)
  notices : ∀ q n, (s.port q).pendingNotices.getLsbD n = true → (t.port q).pendingNotices.getLsbD n = true

theorem Fades.refl (s : State) : Fades s s := ⟨.refl s, fun _ => .refl _, fun _ _ h => h⟩

theorem Fades.trans {s t u : State} (h : Fades s t) (k : Fades t u) : Fades s u :=
  ⟨h.toConcluded.trans k.toConcluded, fun e => (h.entries e).trans (k.entries e),
    fun q n pending => k.notices q n (h.notices q n pending)⟩

/-- A step that changes neither entries nor ports fades nothing. -/
theorem Fades.of_concluded {s t : State} (h : Concluded s t) (entries : t.entries = s.entries) (ports : t.ports = s.ports) :
    Fades s t := by
  refine ⟨h, fun e => ?_, fun q n pending => ?_⟩
  · rw [show t.entry e = s.entry e by rw [State.entry, entries, State.entry]]
    exact .refl _
  · rw [State.port, ports]
    exact pending

theorem Fades.foldl {α : Type} (l : List α) (f : State → α → State) (step : ∀ t x, Fades t (f t x)) (s : State) :
    Fades s (l.foldl f s) := by
  induction l generalizing s with
  | nil => exact .refl s
  | cons x l ih => exact (step s x).trans (ih _)

theorem Fades.foldl_ongoing {α : Type} (l : List α) (f : Ongoing → α → Ongoing)
    (step : ∀ g x, Fades g.hub (f g x).hub) (g : Ongoing) : Fades g.hub (l.foldl f g).hub := by
  induction l generalizing g with
  | nil => exact .refl _
  | cons x l ih => exact (step g x).trans (ih _)

theorem Fades.after_on {s : State} {g : Ongoing} {f : State → State} (h : Fades s g.hub) (k : ∀ t, Fades t (f t)) :
    Fades s (g.on f).hub := h.trans (k g.hub)

theorem Fades.not_live {s t : State} (h : Fades s t) {e : Fin 16} (k : (s.entry e).state ≠ .live) :
    (t.entry e).state ≠ .live := by
  rcases h.entries e with kept | lost
  · rw [kept]
    exact k
  · exact lost.1

/-! ### Engines and alarms after a local step -/

theorem engine_of_local {s t : State} (h : Local s t) (c : Channel) : t.engine c = s.engine c :=
  congrArg (fun x => PerChannel.get x c) h.engines

theorem alarmActive_of_local {s t : State} (h : Local s t) (a : Alarm) : t.alarmActive a = s.alarmActive a :=
  congrArg (fun x => BitVec.getLsbD x a.id) h.alarms

/-! ### Ports, notices and preloads -/

theorem setPort_fades (s : State) (p : Port) (v : PortState) (steady : PortSteady (s.port p) v)
    (notices : ∀ n, (s.port p).pendingNotices.getLsbD n = true → v.pendingNotices.getLsbD n = true) :
    Fades s (s.setPort p v) := by
  refine ⟨⟨setPort_steady s p v steady, rfl, rfl, rfl⟩, fun e => .refl _, fun q n pending => ?_⟩
  rw [setPort_port]
  split
  · next same =>
    subst same
    exact notices n pending
  · exact pending

theorem setEntry_fades (s : State) (e : Fin 16) (v : Entry) (h : EntryFades (s.entry e) v) : Fades s (s.setEntry e v) := by
  refine ⟨(setEntry_local s e v).toConcluded, fun d => ?_, fun _ _ pending => pending⟩
  rw [setEntry_entry]
  split
  · next same =>
    subst same
    exact h
  · exact .refl _

theorem PortState.raise_keeps (x : PortState) (cause : Notice) (n : Nat) (h : x.pendingNotices.getLsbD n = true) :
    (x.raise cause).pendingNotices.getLsbD n = true := by
  unfold PortState.raise
  split
  · exact h
  · simp [h]

theorem PortState.raise_pending (x : PortState) (cause : Notice) :
    (x.raise cause).pendingNotices.getLsbD cause.number = true := by
  unfold PortState.raise
  split
  · assumption
  · have bit : (flag 8 cause.number).getLsbD cause.number = true := by cases cause <;> rfl
    rw [BitVec.getLsbD_or, bit, Bool.or_true]

theorem raise_fades (s : State) (p : Port) (cause : Notice) : Fades s (s.raise p cause) := by
  unfold State.raise
  split
  · exact setPort_fades s p _ (PortState.raise_steady _ cause) (PortState.raise_keeps _ cause)
  · exact .refl s

theorem raiseAll_fades (s : State) (cause : Notice) : Fades s (s.raiseAll cause) :=
  .foldl _ _ (fun t p => raise_fades t p cause) s

theorem raise_pending {s : State} {p : Port} (cause : Notice) (attached : (s.port p).attached = true) :
    ((s.raise p cause).port p).pendingNotices.getLsbD cause.number = true := by
  rw [State.raise, if_pos attached, setPort_port_same]
  exact PortState.raise_pending _ cause

theorem foldl_raise_pending {q : Port} {l : List Port} (member : q ∈ l) (cause : Notice) {s : State}
    (attached : (s.port q).attached = true) :
    ((l.foldl (fun t p => t.raise p cause) s).port q).pendingNotices.getLsbD cause.number = true := by
  induction l generalizing s with
  | nil => simp at member
  | cons p l ih =>
    by_cases rest : q ∈ l
    · exact ih rest (((raise_fades s p cause).ports q).attached.trans attached)
    · obtain rfl : q = p := by simpa [rest] using member
      exact (Fades.foldl l _ (fun t p => raise_fades t p cause) _).notices q _ (raise_pending cause attached)

/-- R163: a raise to every attached port leaves the cause pending at each. -/
theorem raiseAll_pending {s : State} {q : Port} (cause : Notice) (attached : (s.port q).attached = true) :
    ((s.raiseAll cause).port q).pendingNotices.getLsbD cause.number = true :=
  foldl_raise_pending (mem_allPorts q) cause attached

theorem clearOwner_fades (s : State) (p : Port) (e : Fin 16) : Fades s (s.clearOwner p e) := by
  unfold State.clearOwner
  split
  · exact setEntry_fades s e _ (Or.inl rfl)
  · exact .refl s

theorem recordPreloadEnd_fades (s : State) (p : Port) (status : PreloadStatus) : Fades s (s.recordPreloadEnd p status) := by
  have written : Fades s (s.setPort p { s.port p with preload :=
      { (s.port p).preload with running := false, lastStatus := status } }) :=
    setPort_fades s p _ ⟨rfl, rfl, rfl, rfl, rfl, rfl, rfl, rfl, rfl, rfl, rfl⟩ (fun _ pending => pending)
  unfold State.recordPreloadEnd
  simp only
  split
  · exact written
  · exact written.trans (raise_fades _ p _)

theorem removeRecords_fades (s : State) (sel : Record → Bool) : Fades s (s.removeRecords sel) :=
  .of_concluded (removeRecords_local s sel).toConcluded rfl rfl

theorem endPreload_fades (g : Ongoing) (p : Port) (status : PreloadStatus) : Fades g.hub (g.endPreload p status).hub := by
  unfold Ongoing.endPreload
  simp only
  split
  · exact (removeRecords_fades _ _).trans ((clearOwner_fades _ _ _).trans (recordPreloadEnd_fades _ _ _))
  · exact .refl _

theorem actCursor_fades (g : Ongoing) (p : Port) : Fades g.hub (g.actCursor p).hub := by
  have concluded := (actCursor_local g p).toConcluded
  revert concluded
  unfold Ongoing.actCursor
  simp only
  split
  · split
    · exact fun _ => endPreload_fades g p .ok
    · split
      · exact fun _ => .refl _
      · split
        · exact fun concluded => .of_concluded concluded rfl rfl
        · exact fun _ => .refl _
  · exact fun _ => .refl _

theorem actCursors_fades (g : Ongoing) : Fades g.hub g.actCursors.hub := .foldl_ongoing _ _ actCursor_fades g

/-! ### Alarms -/

theorem fence_fades (g : Ongoing) (p : Port) : Fades g.hub (g.fence p).hub := by
  have fenced : Fades g.hub (g.hub.setPort p { g.hub.port p with fenced := true }) :=
    setPort_fades _ p _ ⟨rfl, rfl, rfl, rfl, rfl, rfl, rfl, rfl, rfl, rfl, rfl⟩ (fun _ pending => pending)
  unfold Ongoing.fence
  refine Fades.trans ?_ (endPreload_fades _ p .fenced)
  exact fenced.trans (raise_fades _ p .fenced)

theorem alarmPort_fades (a : Alarm) (g : Ongoing) (p : Port) : Fades g.hub (Ongoing.alarmPort a g p).hub := by
  have latched : Fades g.hub (g.hub.setPort p { g.hub.port p with latched := (g.hub.port p).latched ||| flag 5 a.id }) :=
    setPort_fades _ p _ ⟨rfl, rfl, rfl, rfl, rfl, rfl, rfl, rfl, rfl, rfl, rfl⟩ (fun _ pending => pending)
  have alarmed := latched.trans (raise_fades _ p .alarm)
  unfold Ongoing.alarmPort
  simp only
  split
  · split
    · refine Fades.trans ?_ (fence_fades _ p)
      exact alarmed
    · exact alarmed
  · exact .refl _

theorem activate_fades (g : Ongoing) (a : Alarm) : Fades g.hub (g.activate a).hub := by
  have raised : Fades g.hub { g.hub with alarms := g.hub.alarms ||| flag 5 a.id } :=
    .of_concluded (.of_eq rfl rfl rfl rfl rfl rfl rfl rfl rfl) rfl rfl
  unfold Ongoing.activate
  split
  · exact .refl _
  · refine Fades.trans ?_ (.foldl_ongoing _ _ (alarmPort_fades a) _)
    exact raised

theorem flag_alarm_getLsbD (a b : Alarm) : (flag 5 a.id).getLsbD b.id = decide (a = b) := by
  cases a <;> cases b <;> rfl

/-- R157: a deactivation concerns its own alarm alone. -/
theorem deactivate_alarmActive (s : State) (a b : Alarm) :
    (s.deactivate a).alarmActive b = (s.alarmActive b && !decide (a = b)) := by
  have inRange : b.id < 5 := by cases b <;> decide
  simp only [State.alarmActive, State.deactivate, BitVec.getLsbD_and, BitVec.getLsbD_not, flag_alarm_getLsbD, inRange,
    decide_true, Bool.true_and]

theorem fence_alarms (g : Ongoing) (p : Port) : (g.fence p).hub.alarms = g.hub.alarms := by
  unfold Ongoing.fence
  rw [(endPreload_local _ p .fenced).alarms]
  exact (raise_local _ p .fenced).alarms

theorem alarmPort_alarms (a : Alarm) (g : Ongoing) (p : Port) : (Ongoing.alarmPort a g p).hub.alarms = g.hub.alarms := by
  unfold Ongoing.alarmPort
  simp only
  split
  · split
    · rw [fence_alarms]
      exact (raise_local _ p .alarm).alarms
    · exact (raise_local _ p .alarm).alarms
  · rfl

theorem foldl_alarmPort_alarms (a : Alarm) (l : List Port) (g : Ongoing) :
    (l.foldl (Ongoing.alarmPort a) g).hub.alarms = g.hub.alarms := by
  induction l generalizing g with
  | nil => rfl
  | cons p l ih => exact (ih _).trans (alarmPort_alarms a g p)

/-- R157: after an activation the alarm is active. -/
theorem activate_alarmActive (g : Ongoing) (a : Alarm) : (g.activate a).hub.alarmActive a = true := by
  unfold Ongoing.activate
  split
  · assumption
  · rw [State.alarmActive, foldl_alarmPort_alarms]
    simp [Ongoing.on, flag_alarm_getLsbD]

/-! ### Drops -/

theorem endOwnedPreload_fades (g : Ongoing) (e : Fin 16) : Fades g.hub (g.endOwnedPreload e).hub := by
  unfold Ongoing.endOwnedPreload
  split
  · exact endPreload_fades g _ .dropped
  · exact .refl _

/-- R34: what a drop leaves of an entry is lost. -/
theorem entryLost_cleared {state : EntryState} (h : state ≠ .live) : EntryLost { Entry.cleared with state := state } :=
  ⟨h, rfl, rfl, rfl⟩

theorem clearEntry_fades (g : Ongoing) (e : Fin 16) : Fades g.hub (g.clearEntry e).hub :=
  setEntry_fades g.hub e _ (Or.inr (entryLost_cleared (by split <;> simp)))

theorem dropEntry_fades (g : Ongoing) (e : Fin 16) : Fades g.hub (g.dropEntry e).hub := by
  unfold Ongoing.dropEntry
  split
  · exact ((removeRecords_fades g.hub _).trans (endOwnedPreload_fades (g.removeForDrop e) e)).trans (clearEntry_fades _ e)
  · exact .refl _

theorem dropEntry_not_live (g : Ongoing) (e : Fin 16) : ((g.dropEntry e).hub.entry e).state ≠ .live := by
  unfold Ongoing.dropEntry
  split
  · simp only [Ongoing.clearEntry, setEntry_entry_same]
    split <;> simp
  · assumption

theorem foldl_dropEntry_not_live {e : Fin 16} {l : List (Fin 16)} (member : e ∈ l) (g : Ongoing) :
    ((l.foldl Ongoing.dropEntry g).hub.entry e).state ≠ .live := by
  induction l generalizing g with
  | nil => simp at member
  | cons d l ih =>
    by_cases rest : e ∈ l
    · exact ih rest _
    · obtain rfl : e = d := by simpa [rest] using member
      exact (Fades.foldl_ongoing l _ dropEntry_fades _).not_live (dropEntry_not_live g e)

theorem drop_all_eq (g : Ongoing) :
    g.drop (fun _ => true) = (allEntries.foldl Ongoing.dropEntry g).on (fun s => s.moveToLruEnd (fun _ => true)) := by
  simp only [Ongoing.drop, if_true]

theorem moveToLruEnd_fades (s : State) (sel : Fin 16 → Bool) : Fades s (s.moveToLruEnd sel) :=
  .of_concluded (moveToLruEnd_local s sel).toConcluded rfl rfl

theorem drop_all_fades (g : Ongoing) : Fades g.hub (g.drop (fun _ => true)).hub := by
  rw [drop_all_eq]
  exact (Fades.foldl_ongoing _ _ dropEntry_fades g).trans (moveToLruEnd_fades _ _)

/-- R35: a drop of every entry leaves no entry LIVE. -/
theorem drop_all_not_live (g : Ongoing) (e : Fin 16) : ((g.drop (fun _ => true)).hub.entry e).state ≠ .live := by
  rw [drop_all_eq]
  exact (moveToLruEnd_fades _ _).not_live (foldl_dropEntry_not_live (mem_allEntries e) g)

/-! ### Reads taken again and the end of an event -/

/-- R42: a read waits for the link at step 3 or is out of range at step 4. -/
theorem evalRead_of_noImage {s : State} (h : NoImage s) (p : Port) (x : ImageAddress) (beats : Nat) :
    (s.evalRead p x beats).1 = s := by
  by_cases bringup : s.link.state = .bringup
  · simp [State.evalRead, bringup]
  · simp [State.evalRead, bringup, h.2]

theorem takeRead_entries {s : State} (p : Port) (x : ImageAddress) (beats : Nat) (deadline : Option Nat) :
    (s.takeRead p x beats deadline).entries = (s.evalRead p x beats).1.entries := by
  unfold State.takeRead
  split <;> simp_all [State.answerError]

theorem retake_fades {s : State} (h : NoImage s) (p : Port) : Fades s (s.retake p) := by
  have entries : (s.retake p).entries = s.entries := by
    unfold State.retake
    split
    · rw [takeRead_entries, evalRead_of_noImage h]
    · rfl
  refine ⟨(retake_local s p).toConcluded, fun e => ?_, fun q n pending => ?_⟩
  · rw [show (s.retake p).entry e = s.entry e by rw [State.entry, entries, State.entry]]
    exact .refl _
  · rw [retake_portsTaken s p q]
    exact pending

theorem pass_fades {s : State} (h : NoImage s) (which : PortSet) : Fades s (s.pass which) := by
  unfold State.pass
  generalize allPorts = l
  induction l generalizing s with
  | nil => exact .refl s
  | cons p l ih =>
    have first : Fades s (if which.get p then s.retake p else s) := by
      split
      · exact retake_fades h p
      · exact .refl s
    exact first.trans (ih (h.concluded first.toConcluded))

theorem retakeDue_fades {g : Ongoing} (h : NoImage g.hub) : Fades g.hub g.retakeDue.hub := by
  unfold Ongoing.retakeDue
  split <;> exact pass_fades h _

/-- R88: with no mode in effect no channel takes a record. -/
theorem dispatchOne_of_noImage {s : State} (h : NoImage s) : s.dispatchOne = s := by
  have none_eligible : ∀ c r, s.eligibleFor c r = false := by
    intro c r
    simp [State.eligibleFor, State.channelInMode, h.1]
  simp [State.dispatchOne, none_eligible, highestRanked]

/-- The end of an event with no image and no stop under way: passes and cursors alone. -/
theorem settle_of_noImage {g : Ongoing} (h : NoImage g.hub) (running : g.hub.link.state ≠ .stopping) :
    g.settle = g.retakeDue.actCursors.retakeDue.hub := by
  have kept := (retakeDue_local g).trans ((actCursors_local _).trans (retakeDue_local _))
  have noImage := h.concluded kept.toConcluded
  have still : ¬ g.retakeDue.actCursors.retakeDue.hub.link.state = .stopping := by
    rw [kept.link]
    exact running
  rw [Ongoing.settle, State.dispatch, dispatchOne_of_noImage noImage, dispatchOne_of_noImage noImage, State.completeStop,
    if_neg (fun stopping => still stopping.1)]

theorem settle_local {g : Ongoing} (h : NoImage g.hub) (running : g.hub.link.state ≠ .stopping) :
    Local g.hub g.settle := by
  rw [settle_of_noImage h running]
  exact (retakeDue_local g).trans ((actCursors_local _).trans (retakeDue_local _))

theorem settle_fades {g : Ongoing} (h : NoImage g.hub) (running : g.hub.link.state ≠ .stopping) :
    Fades g.hub g.settle := by
  have taken := retakeDue_fades h
  have acted := taken.trans (actCursors_fades _)
  rw [settle_of_noImage h running]
  exact acted.trans (retakeDue_fades (h.concluded acted.toConcluded))

end Sys2Proof.Proofs.Imageless
end

section
/-! SUPPORT. The begin of a bring-up (R112), its end at once where no channel is enabled (R114), and LINK START (R119). -/

namespace Sys2Proof.Proofs.LinkStart

open Sys2Proof.Machine Sys2Proof.Claims Sys2Proof.Proofs.BlockDirectory Sys2Proof.Proofs.Imageless

/-! ### The begin of a bring-up -/

/-- R112: the link and the alarms of the link as a bring-up begins. -/
def linkBegun (s : State) : State :=
  (({ s with link := { s.link with state := .bringup, mode := none, imageSize := 0, firstBringupDone := true } }
    ).deactivate .pairFault).deactivate .mirrorDegraded

/-- R112: the drop of every entry and IMAGE_LOST. -/
def imageLost (g : Ongoing) : Ongoing := (g.drop (fun _ => true)).on (fun s => s.raiseAll .imageLost)

/-- R112: the drop of every entry, IMAGE_LOST and the pass the drop owes, but for the first bring-up. -/
def imageDropped (first : Bool) (g : Ongoing) : Ongoing :=
  if first then g else (imageLost g).retakeDue

/-- R112: the event up to the wake of the enabled channels. -/
def begun (g : Ongoing) : Ongoing :=
  (imageDropped (!g.hub.link.firstBringupDone) (g.on linkBegun)).on (fun s => (s.wakeChannel .a).wakeChannel .b)

theorem beginBringup_eq (g : Ongoing) : g.beginBringup = (begun g).checkBringup := rfl

theorem linkBegun_noImage (s : State) : NoImage (linkBegun s) := ⟨rfl, rfl⟩

theorem linkBegun_pairFault (s : State) : (linkBegun s).alarmActive .pairFault = false := by
  simp [linkBegun, deactivate_alarmActive]

theorem linkBegun_mirrorDegraded (s : State) : (linkBegun s).alarmActive .mirrorDegraded = false := by
  simp [linkBegun, deactivate_alarmActive]

theorem imageLost_local (g : Ongoing) : Local g.hub (imageLost g).hub := by
  have dropped := drop_local g (fun _ => true)
  unfold imageLost
  generalize g.drop (fun _ => true) = h at dropped
  exact dropped.trans (raiseAll_local h.hub .imageLost)

theorem imageLost_fades (g : Ongoing) : Fades g.hub (imageLost g).hub :=
  (drop_all_fades g).after_on (fun t => raiseAll_fades t .imageLost)

theorem imageLost_not_live (g : Ongoing) (e : Fin 16) : ((imageLost g).hub.entry e).state ≠ .live := by
  have dropped := drop_all_not_live g e
  unfold imageLost
  generalize g.drop (fun _ => true) = h at dropped
  exact (raiseAll_fades h.hub .imageLost).not_live dropped

theorem imageLost_pending {g : Ongoing} {q : Port} (attached : (g.hub.port q).attached = true) :
    ((imageLost g).hub.port q).pendingNotices.getLsbD 0 = true := by
  have stillAttached := ((drop_all_fades g).ports q).attached.trans attached
  unfold imageLost
  generalize g.drop (fun _ => true) = h at stillAttached
  exact raiseAll_pending .imageLost stillAttached

theorem imageDropped_local (first : Bool) (g : Ongoing) : Local g.hub (imageDropped first g).hub := by
  unfold imageDropped
  split
  · exact .refl _
  · exact (imageLost_local g).trans (retakeDue_local _)

theorem retaken_fades {g : Ongoing} (h : NoImage g.hub) : Fades (imageLost g).hub (imageLost g).retakeDue.hub :=
  retakeDue_fades (h.concluded (imageLost_fades g).toConcluded)

theorem imageDropped_fades (first : Bool) {g : Ongoing} (h : NoImage g.hub) : Fades g.hub (imageDropped first g).hub := by
  unfold imageDropped
  split
  · exact .refl _
  · exact (imageLost_fades g).trans (retaken_fades h)

/-- R35: the drop of a bring-up that is not the first leaves no entry LIVE and raises IMAGE_LOST. -/
theorem imageDropped_directoryLost {g : Ongoing} (h : NoImage g.hub) :
    (∀ e, ((imageDropped false g).hub.entry e).state ≠ .live) ∧
      ∀ q, (g.hub.port q).attached = true → ((imageDropped false g).hub.port q).pendingNotices.getLsbD 0 = true := by
  have dropped : imageDropped false g = (imageLost g).retakeDue := if_neg Bool.false_ne_true
  rw [dropped]
  exact ⟨fun e => (retaken_fades h).not_live (imageLost_not_live g e),
    fun q attached => (retaken_fades h).notices q 0 (imageLost_pending attached)⟩

/-! ### The wake of the enabled channels -/

/-- R112: the engine of a channel as a bring-up begins. -/
def engineBegun (s : State) (c : Channel) : Engine :=
  if s.setup.channelEnabled c then
    { state := .waking, typeCode := 0, capacityCode := 0, faultReason := .none, step := .wake
      transaction := some { kind := .wake, command := s.setup.wakeCommand, address := none, readLength := 0, sent := [] }
      wakeTimer := none, pollTimer := none, operationTimer := none }
  else
    { state := .off, typeCode := 0, capacityCode := 0, faultReason := (s.engine c).faultReason, step := .rest
      transaction := none, wakeTimer := none, pollTimer := none, operationTimer := none }

theorem wakeChannel_eq (s : State) (c : Channel) : s.wakeChannel c = s.setEngine c (engineBegun s c) := by
  unfold State.wakeChannel engineBegun
  split
  · simp only [State.startTransaction, setEngine_engine_same, setEngine_setup]
    simp only [State.setEngine, PerChannel.set_set]
    rfl
  · rfl

theorem wakeChannels_eq (s : State) :
    (s.wakeChannel .a).wakeChannel .b = { s with engines := ⟨engineBegun s .a, engineBegun s .b⟩ } := by
  rw [wakeChannel_eq, wakeChannel_eq]
  rfl

theorem wakeChannels_fades (s : State) : Fades s ((s.wakeChannel .a).wakeChannel .b) := by
  rw [wakeChannels_eq]
  exact .of_concluded (.of_eq rfl rfl rfl rfl rfl rfl rfl rfl rfl) rfl rfl

/-- What an engine becomes depends on the Shared Setup and on its fault reason. -/
theorem engineBegun_congr {s t : State} (h : Local s t) (c : Channel) : engineBegun t c = engineBegun s c := by
  unfold engineBegun State.engine
  rw [h.setup, h.engines]

theorem begun_fades (g : Ongoing) : Fades (linkBegun g.hub) (begun g).hub :=
  (imageDropped_fades _ (g := g.on linkBegun) (linkBegun_noImage g.hub)).trans (wakeChannels_fades _)

theorem begun_engine (g : Ongoing) (c : Channel) : (begun g).hub.engine c = engineBegun g.hub c := by
  have dropped := imageDropped_local (!g.hub.link.firstBringupDone) (g.on linkBegun)
  calc (begun g).hub.engine c = engineBegun (imageDropped (!g.hub.link.firstBringupDone) (g.on linkBegun)).hub c := by
        rw [begun, Ongoing.on, wakeChannels_eq]
        cases c <;> rfl
    _ = engineBegun (linkBegun g.hub) c := engineBegun_congr dropped c
    _ = engineBegun g.hub c := rfl

theorem begun_link (g : Ongoing) : (begun g).hub.link =
    { g.hub.link with state := .bringup, mode := none, imageSize := 0, firstBringupDone := true } := by
  rw [begun, Ongoing.on, wakeChannels_eq]
  exact (imageDropped_local _ (g.on linkBegun)).link

theorem begun_alarmActive (g : Ongoing) (a : Alarm) : (begun g).hub.alarmActive a = (linkBegun g.hub).alarmActive a := by
  rw [begun, Ongoing.on, wakeChannels_eq]
  exact congrArg (fun x => BitVec.getLsbD x a.id) (imageDropped_local _ (g.on linkBegun)).alarms

theorem begun_noImage (g : Ongoing) : NoImage (begun g).hub := by
  rw [NoImage, begun_link]
  exact ⟨rfl, rfl⟩

/-! ### The end at once of a bring-up with no channel enabled -/

/-- R114: PAIR_FAULT at the end of a bring-up with no channel ok. -/
def pairJudged (g : Ongoing) : Ongoing := if g.hub.setup.configuredMode = .mirror then g.activate .pairFault else g

/-- R114: the link goes DOWN. -/
def linkDown (s : State) : State := { s with link := { s.link with state := .down } }

/-- R114: the end of a bring-up with no channel ok. -/
def endedDown (g : Ongoing) : Ongoing :=
  (((pairJudged g).on linkDown).on (fun s => s.retakeHeld .heldLink)).on (fun s => s.raiseAll .linkReady)

theorem pairing_none (configured : ConfiguredMode) (equal : Bool) : pairing configured false false equal = none := by
  cases configured <;> rfl

theorem pairJudged_fades (g : Ongoing) : Fades g.hub (pairJudged g).hub := by
  unfold pairJudged
  split
  · exact activate_fades g .pairFault
  · exact .refl _

theorem pairJudged_contained (g : Ongoing) : Contained g.hub (pairJudged g).hub := by
  unfold pairJudged
  split
  · exact activate_contained g .pairFault
  · exact .refl _

theorem pairJudged_alarmActive {g : Ongoing} (inactive : g.hub.alarmActive .pairFault = false) :
    (pairJudged g).hub.alarmActive .pairFault = true ↔ g.hub.setup.configuredMode = .mirror := by
  unfold pairJudged
  split
  · next mirror => simp [activate_alarmActive, mirror]
  · next other => simp [inactive, other]

/-- R114 step 1: an engine that is not IDLE stays as it is. -/
theorem retireEngine_of_off {s : State} {c : Channel} (off : (s.engine c).state = .off) : s.retireEngine c = s := by
  simp [State.retireEngine, off]

/-- With no image the absent mode and its size 0 are what the link holds already. -/
theorem modeAbsent_eq {g : Ongoing} (h : NoImage g.hub) :
    g.on (fun s => { s with link := { s.link with mode := none, imageSize := s.sizeOf none } }) = g := by
  have link : { g.hub.link with mode := none, imageSize := 0 } = g.hub.link := by rw [← h.1, ← h.2]
  simp only [Ongoing.on, State.sizeOf, link]

theorem endBringup_of_off {g : Ongoing} (h : NoImage g.hub) (off : ∀ c, (g.hub.engine c).state = .off) :
    g.endBringup = endedDown g := by
  have offAfter : ∀ c, ((pairJudged g).hub.engine c).state = .off := by
    intro c
    rw [State.engine, (pairJudged_contained g).engines]
    exact off c
  have retired : ((pairJudged g).hub.retireEngine .a).retireEngine .b = (pairJudged g).hub := by
    rw [retireEngine_of_off (offAfter .a), retireEngine_of_off (offAfter .b)]
  have notIdle : (EngineState.off == EngineState.idle) = false := rfl
  have judged : (if g.hub.setup.configuredMode = .mirror ∧ (none : Option Mode) ≠ some .mirror then
      g.activate .pairFault else g) = pairJudged g := by simp [pairJudged]
  unfold Ongoing.endBringup
  simp only [off, notIdle, pairing_none, modeAbsent_eq h, judged]
  simp only [Ongoing.on, retired, Option.isSome_none, Bool.false_eq_true, if_false]
  rfl

theorem linkDown_fades (s : State) : Fades s (linkDown s) :=
  .of_concluded (.of_eq rfl rfl rfl rfl rfl rfl rfl rfl rfl) rfl rfl

theorem linkDown_noImage {g : Ongoing} (h : NoImage g.hub) : NoImage ((pairJudged g).on linkDown).hub :=
  h.concluded (((pairJudged_fades g).after_on linkDown_fades).toConcluded)

/-- The pass over the HELD_LINK reads and LINK_READY leave the link, the engines and the alarms alone. -/
theorem endedDown_local (g : Ongoing) : Local ((pairJudged g).on linkDown).hub (endedDown g).hub :=
  (retakeHeld_local _ .heldLink).trans (raiseAll_local _ .linkReady)

theorem endedDown_fades {g : Ongoing} (h : NoImage g.hub) : Fades g.hub (endedDown g).hub :=
  (((pairJudged_fades g).after_on linkDown_fades).trans (pass_fades (linkDown_noImage h) _)).trans
    (raiseAll_fades _ .linkReady)

theorem endedDown_link (g : Ongoing) : (endedDown g).hub.link = { g.hub.link with state := .down } := by
  rw [(endedDown_local g).link, Ongoing.on, linkDown, (pairJudged_contained g).link]

theorem endedDown_engine (g : Ongoing) (c : Channel) : (endedDown g).hub.engine c = g.hub.engine c := by
  rw [State.engine, (endedDown_local g).engines, State.engine, ← (pairJudged_contained g).engines]
  rfl

theorem endedDown_alarmActive (g : Ongoing) (a : Alarm) :
    (endedDown g).hub.alarmActive a = (pairJudged g).hub.alarmActive a := by
  rw [State.alarmActive, (endedDown_local g).alarms]
  rfl

theorem endedDown_linkReady {g : Ongoing} {q : Port} (attached : (g.hub.port q).attached = true) :
    ((endedDown g).hub.port q).pendingNotices.getLsbD 7 = true := by
  have before := ((pairJudged_contained g).ports q).attached.trans attached
  have held := (retakeHeld_local (linkDown (pairJudged g).hub) .heldLink).ports q
  exact raiseAll_pending .linkReady (held.attached.trans before)

/-! ### The event that begins a bring-up -/

theorem checkBringup_of_enabled {g : Ongoing} (h : SomeChannelEnabled g.hub) : (begun g).checkBringup = begun g := by
  obtain ⟨c, enabled⟩ := h
  have waking : ((begun g).hub.engine c).state.identifying = true := by
    simp [begun_engine, engineBegun, enabled, EngineState.identifying]
  rw [Ongoing.checkBringup, if_neg]
  rintro ⟨-, doneA, doneB⟩
  cases c <;> simp_all

theorem begun_off {g : Ongoing} (h : ¬ SomeChannelEnabled g.hub) (c : Channel) : ((begun g).hub.engine c).state = .off := by
  have disabled : ¬ g.hub.setup.channelEnabled c = true := fun enabled => h ⟨c, enabled⟩
  rw [begun_engine, engineBegun, if_neg disabled]

theorem checkBringup_of_disabled {g : Ongoing} (h : ¬ SomeChannelEnabled g.hub) :
    (begun g).checkBringup = endedDown (begun g) := by
  rw [Ongoing.checkBringup, if_pos, endBringup_of_off (begun_noImage g) (begun_off h)]
  simp [begun_link, begun_off h, EngineState.identifying]

theorem beginBringup_of_enabled {g : Ongoing} (h : SomeChannelEnabled g.hub) : g.beginBringup = begun g :=
  (beginBringup_eq g).trans (checkBringup_of_enabled h)

theorem beginBringup_of_disabled {g : Ongoing} (h : ¬ SomeChannelEnabled g.hub) : g.beginBringup = endedDown (begun g) :=
  (beginBringup_eq g).trans (checkBringup_of_disabled h)

/-- A bring-up has no image and no stop under way, whether it goes on or has ended with the link DOWN. -/
theorem beginBringup_fades (g : Ongoing) :
    Fades (begun g).hub g.beginBringup.hub ∧ g.beginBringup.hub.link.state ≠ .stopping := by
  by_cases enabled : SomeChannelEnabled g.hub
  · rw [beginBringup_of_enabled enabled, begun_link]
    exact ⟨.refl _, by simp⟩
  · rw [beginBringup_of_disabled enabled, endedDown_link]
    exact ⟨endedDown_fades (begun_noImage g), by simp⟩

theorem beginBringup_noImage (g : Ongoing) : NoImage g.beginBringup.hub :=
  (begun_noImage g).concluded (beginBringup_fades g).1.toConcluded

/-- The end of the event leaves the link, the engines and the alarms as the begin of the bring-up left them. -/
theorem settled_local (g : Ongoing) : Local g.beginBringup.hub g.beginBringup.settle :=
  settle_local (beginBringup_noImage g) (beginBringup_fades g).2

theorem settled_fades (g : Ongoing) : Fades (begun g).hub g.beginBringup.settle :=
  (beginBringup_fades g).1.trans (settle_fades (beginBringup_noImage g) (beginBringup_fades g).2)

/-- R112: with a channel enabled the bring-up is under way at the end of the event. -/
theorem settled_begun {g : Ongoing} (h : SomeChannelEnabled g.hub) : BringupBegun g.hub g.beginBringup.settle := by
  have kept := settled_local g
  rw [beginBringup_of_enabled h] at kept ⊢
  unfold BringupBegun
  simp only [kept.link, begun_link, alarmActive_of_local kept, begun_alarmActive, linkBegun_pairFault,
    linkBegun_mirrorDegraded, engine_of_local kept, begun_engine]
  exact ⟨trivial, trivial, trivial, trivial, trivial, trivial, fun c => rfl⟩

/-- R114: with no channel enabled the bring-up has ended in the same event, with the link DOWN. -/
theorem settled_down {g : Ongoing} (h : ¬ SomeChannelEnabled g.hub) :
    let t := g.beginBringup.settle
    t.link.state = .down ∧ t.link.mode = none ∧ t.link.imageSize = 0 ∧ t.link.firstBringupDone = true ∧
      (∀ c, AtRest (t.engine c) .off) ∧ (t.alarmActive .pairFault = true ↔ g.hub.setup.configuredMode = .mirror) ∧
      ∀ q, (g.hub.port q).attached = true → (t.port q).pendingNotices.getLsbD 7 = true := by
  have kept := settled_local g
  have faded := settle_fades (beginBringup_noImage g) (beginBringup_fades g).2
  have inactive : (begun g).hub.alarmActive .pairFault = false := by rw [begun_alarmActive, linkBegun_pairFault]
  have begunKept := begun_fades g
  rw [beginBringup_of_disabled h] at kept faded ⊢
  simp only [kept.link, endedDown_link, begun_link, alarmActive_of_local kept, endedDown_alarmActive, engine_of_local kept,
    endedDown_engine, pairJudged_alarmActive inactive, begunKept.setup]
  refine ⟨trivial, trivial, trivial, trivial, fun c => ?_, Iff.rfl, fun q attached => ?_⟩
  · have disabled : ¬ g.hub.setup.channelEnabled c = true := fun enabled => h ⟨c, enabled⟩
    rw [begun_engine, engineBegun, if_neg disabled]
    exact ⟨rfl, rfl, rfl, rfl, rfl, rfl⟩
  · exact faded.notices q 7 (endedDown_linkReady ((begunKept.ports q).attached.trans attached))

/-- R112: but for the first bring-up, the directory is dropped with IMAGE_LOST. -/
theorem settled_directoryLost {g : Ongoing} (done : g.hub.link.firstBringupDone = true) :
    DirectoryLost g.hub g.beginBringup.settle := by
  obtain ⟨notLive, imageLost⟩ := imageDropped_directoryLost (g := g.on linkBegun) (linkBegun_noImage g.hub)
  have woken : Fades (imageDropped false (g.on linkBegun)).hub (begun g).hub := by
    rw [begun, done]
    exact (Fades.refl _).after_on wakeChannels_fades
  have rest := woken.trans (settled_fades g)
  have whole := (begun_fades g).trans (settled_fades g)
  refine ⟨fun e => ⟨rest.not_live (notLive e), fun live => ?_⟩,
    fun q attached => rest.notices q 0 (imageLost q attached)⟩
  obtain ⟨-, tag, valid, unlocked⟩ := (whole.entries e).lost live (rest.not_live (notLive e))
  exact ⟨tag, valid, unlocked⟩

/-- R112, R114: what the event that begins a bring-up leaves. -/
theorem beginBringup_starts (g : Ongoing) : BringupStarts g.hub g.beginBringup.settle :=
  ⟨settled_begun, settled_down, settled_directoryLost⟩

/-! ### LINK START -/

theorem finished_pendingNotices (t : State) (p q : Port) (code : ResultCode) (offset : Byte) :
    ((finished t p code offset).port q).pendingNotices = (t.port q).pendingNotices := by
  rw [finished, State.port, PerPort.get_set]
  split
  · next same => rw [same]
  · rfl

/-- R166, R167: RESULT, the grant timer and the answer are no part of what a bring-up leaves. -/
theorem bringupStarts_finished {s t : State} (h : BringupStarts s t) (p : Port) (code : ResultCode) (offset : Byte) :
    BringupStarts s (finished t p code offset) := by
  obtain ⟨enabled, disabled, dropped⟩ := h
  refine ⟨enabled, fun none => ?_, fun done => ?_⟩
  · obtain ⟨state, mode, size, first, engines, alarm, linkReady⟩ := disabled none
    exact ⟨state, mode, size, first, engines, alarm,
      fun q attached => (finished_pendingNotices t p q code offset).symm ▸ linkReady q attached⟩
  · obtain ⟨entries, imageLost⟩ := dropped done
    exact ⟨entries, fun q attached => (finished_pendingNotices t p q code offset).symm ▸ imageLost q attached⟩

/-- R119: the checks and the effect of LINK START. -/
def linkStarted (s : State) (p : Port) : State × ResultCode :=
  if !s.isHolder p then (s, .notGranted)
  else if s.link.state ≠ .stopped then (s, .linkRunning)
  else ((Ongoing.start s).beginBringup.settle, .ok)

theorem linkStarted_of_not_holder {s : State} {p : Port} (h : ¬ Holds s p) : linkStarted s p = (s, .notGranted) := by
  have notHolder : s.isHolder p = false := Bool.eq_false_iff.2 (fun holder => h (isHolder_iff.1 holder))
  simp [linkStarted, notHolder]

theorem linkStarted_of_running {s : State} {p : Port} (h : Holds s p) (running : s.link.state ≠ .stopped) :
    linkStarted s p = (s, .linkRunning) := by
  simp [linkStarted, isHolder_iff.2 h, running]

theorem linkStarted_of_stopped {s : State} {p : Port} (h : Holds s p) (stopped : s.link.state = .stopped) :
    linkStarted s p = ((Ongoing.start s).beginBringup.settle, .ok) := by
  simp [linkStarted, isHolder_iff.2 h, stopped]

theorem exec_linkStart {s : State} {p : Port} (acc : Accessible s p) (w : Word) :
    exec (.linkStart p w) s =
      .next (finished (linkStarted s.quiet p).1 p (linkStarted s.quiet p).2 0x74) := by
  calc exec (.linkStart p w) s = execLinkStart p w s := rfl
    _ = _ := command_eq_finished acc 0x74 (fun t => linkStarted t p)

/-- What the event that begins a bring-up leaves alone. -/
theorem beginBringup_concluded (g : Ongoing) : Concluded (linkBegun g.hub) g.beginBringup.settle :=
  ((begun_fades g).trans (settled_fades g)).toConcluded

/-- Settles O37: the two refusals, and the bring-up that LINK START begins in STOPPED. -/
theorem linkStartBeginsABringup : Obligations.LinkStartBeginsABringup := by
  intro p w s acc
  rw [exec_linkStart acc]
  refine ⟨fun notHolder => ?_, fun holds running => ?_, fun holds stopped => ?_⟩
  · rw [linkStarted_of_not_holder (s := s.quiet) notHolder]
    rfl
  · rw [linkStarted_of_running (s := s.quiet) holds running]
    rfl
  · rw [linkStarted_of_stopped (s := s.quiet) holds stopped]
    have starts : BringupStarts s (Ongoing.start s.quiet).beginBringup.settle := beginBringup_starts (.start s.quiet)
    have kept := beginBringup_concluded (.start s.quiet)
    generalize (Ongoing.start s.quiet).beginBringup.settle = t at starts kept
    refine ⟨finished t p .ok 0x74, rfl, ?_, bringupStarts_finished starts p .ok 0x74, ?_, kept.chunks, kept.setup,
      kept.now, ?_, ?_⟩
    · exact congrArg PortState.result (PerPort.get_set_same _ p _)
    · have timer : timerAfter t p = timerAfter s p := by
        rw [timerAfter, kept.update, kept.setup, kept.now]
        rfl
      rw [← timer, finished, kept.update]
      rfl
    · exact kept.framed.strap
    · exact (congrArg LinkController.takeAck kept.link).trans rfl

end Sys2Proof.Proofs.LinkStart
end

section
/-! SUPPORT. The commands on the update grant and the staging buffer: CLAIM (R124), RELEASE (R125), STAGE OPEN (R129). -/

namespace Sys2Proof.Proofs.Grant

open Sys2Proof.Machine Sys2Proof.Safety Sys2Proof.Claims Sys2Proof.Proofs.BlockDirectory

/-! ### Rows of a command's table -/

/-- R166, R167: a row of a command's table that leaves `t` with a code decides the whole next state. -/
theorem command_of_effect {s t : State} {p : Port} {offset : Byte} {code : ResultCode}
    {effect : State → State × ResultCode} (acc : Accessible s p) (row : effect s.quiet = (t, code)) :
    command offset p effect s = .next (finished t p code offset) := by
  rw [command_eq_finished acc, row]

/-- R166, R167: a row with no effect refuses the command. -/
theorem command_of_no_effect {s : State} {p : Port} {offset : Byte} {code : ResultCode}
    {effect : State → State × ResultCode} (acc : Accessible s p) (row : effect s.quiet = (s.quiet, code)) :
    command offset p effect s = .next (refused s p code offset) :=
  command_of_effect acc row

/-! ### The checks -/

/-- R128: the first check of every command that needs the grant. -/
theorem not_isHolder_iff {s : State} {p : Port} : (!s.isHolder p) = true ↔ ¬ Holds s p := by
  rw [Bool.not_eq_true', ← Bool.not_eq_true, isHolder_iff]

/-- The two checks that RELEASE (R125) and STAGE OPEN (R129) begin with: NOT_GRANTED, then BUSY; past them the command has its
own effect. -/
theorem command_after_grant_checks {s : State} {p : Port} {offset : Byte} {effect : State → State × ResultCode}
    (acc : Accessible s p) :
    command offset p (fun t =>
        if !t.isHolder p then (t, .notGranted) else if t.update.op.isSome then (t, .busy) else effect t) s =
      .next (
        if ¬ Holds s p then refused s p .notGranted offset
        else if s.update.op.isSome then refused s p .busy offset
        else finished (effect s.quiet).1 p (effect s.quiet).2 offset) := by
  by_cases holds : Holds s p
  case neg =>
    rw [if_pos holds]
    exact command_of_no_effect acc (if_pos (not_isHolder_iff.2 holds))
  have granted : ¬ (!s.isHolder p) = true := fun no => not_isHolder_iff.1 no holds
  rw [if_neg (not_not_intro holds)]
  by_cases busy : s.update.op.isSome = true
  · rw [if_pos busy]
    exact command_of_no_effect acc ((if_neg granted).trans (if_pos busy))
  · rw [if_neg busy]
    exact command_of_effect acc ((if_neg granted).trans (if_neg busy))

/-- R129 check 3: the operand is no page address of the image. -/
theorem not_page_iff {s : State} {w : Word} :
    (!(operandNumber w % Config.pageBytes == 0 && operandNumber w < s.link.imageSize)) = true ↔
      w.toNat % 256 ≠ 0 ∨ s.link.imageSize ≤ w.toNat := by
  rw [Bool.not_eq_true', Bool.and_eq_false_iff, beq_eq_false_iff_ne, decide_eq_false_iff_not, Nat.not_lt]
  rfl

/-! ### CLAIM -/

/-- R123: nothing outlives the grant: where no port holds it there is no open page, no operation and no orphan. -/
theorem nothing_without_holder {s : State} (grant : GrantLaw s) (orphan : OrphanedOnlyDuringOperation s)
    (free : s.update.holder = none) :
    s.update.stagedPage = none ∧ s.update.op = none ∧ s.update.orphaned = false := by
  obtain ⟨opHeld, pageHeld, -⟩ := grant
  have unheld : ¬ s.update.holder.isSome = true := by simp [free]
  exact ⟨Option.not_isSome_iff_eq_none.1 (mt pageHeld unheld), Option.not_isSome_iff_eq_none.1 (mt opHeld unheld),
    Bool.eq_false_iff.2 (fun orphaned => unheld (orphan orphaned).2)⟩

theorem exec_claim (p : Port) (w : Word) (s : State) : exec (.claim p w) s = execClaim p w s := rfl

/-- Settles O16: the three rows of R124, and what the law of R123 says where there is no holder. -/
theorem claimByTable : Obligations.ClaimByTable := by
  intro p w s acc grant orphan
  refine ⟨?_, nothing_without_holder grant orphan⟩
  rw [exec_claim, execClaim]
  by_cases free : s.update.holder = none
  · rw [if_pos free]
    exact command_of_effect acc (if_pos free)
  rw [if_neg free]
  by_cases holds : Holds s p
  · rw [if_pos holds]
    exact command_of_no_effect acc ((if_neg free).trans (if_pos (isHolder_iff.2 holds)))
  · rw [if_neg holds]
    exact command_of_no_effect acc ((if_neg free).trans (if_neg (mt isHolder_iff.1 holds)))

/-! ### RELEASE -/

theorem exec_release (p : Port) (w : Word) (s : State) : exec (.release p w) s = execRelease p w s := rfl

/-- Settles O17: past its two checks RELEASE has the one effect of R125. -/
theorem releaseByTable : Obligations.ReleaseByTable := by
  intro p w s acc
  rw [exec_release, execRelease, command_after_grant_checks acc]
  rfl

/-! ### STAGE OPEN -/

theorem exec_stageOpen (p : Port) (w : Word) (s : State) : exec (.stageOpen p w) s = execStageOpen p w s := rfl

/-- Settles O18: past the checks of the grant, the operand is refused RANGE or becomes the open page. -/
theorem stageOpenByChecksInOrder : Obligations.StageOpenByChecksInOrder := by
  intro p w s acc
  rw [exec_stageOpen, execStageOpen, command_after_grant_checks acc]
  by_cases range : w.toNat % 256 ≠ 0 ∨ s.link.imageSize ≤ w.toNat
  · rw [if_pos range, if_pos ((not_page_iff (s := s.quiet)).2 range)]
    rfl
  · rw [if_neg range, if_neg (mt (not_page_iff (s := s.quiet)).1 range)]
    rfl

end Sys2Proof.Proofs.Grant
end

section
/-! SUPPORT. FENCE CLEAR (R162): its one check and its effect. -/

namespace Sys2Proof.Proofs.Fences

open Sys2Proof.Machine Sys2Proof.Claims Sys2Proof.Proofs.Grant

/-- R162: the check of FENCE CLEAR, on the port's own fields and the active alarm set. -/
theorem fenceClear_refusal_iff {s : State} {p : Port} :
    ((s.port p).autoFence && s.unmaskedAlarm p) = true ↔
      (s.port p).autoFence = true ∧ (s.alarms &&& ~~~(s.port p).fenceMask) ≠ 0 := by
  rw [Bool.and_eq_true, State.unmaskedAlarm, bne_iff_ne]

theorem exec_fenceClear (p : Port) (w : Word) (s : State) : exec (.fenceClear p w) s = execFenceClear p w s := rfl

/-- Settles O7: the two rows of R162, ALARM_ACTIVE with no effect, and OK with the fenced flag cleared. -/
theorem fenceClearByAlarms : Obligations.FenceClearByAlarms := by
  intro p w s acc
  rw [exec_fenceClear, execFenceClear]
  by_cases blocked : (s.port p).autoFence = true ∧ (s.alarms &&& ~~~(s.port p).fenceMask) ≠ 0
  · rw [if_pos blocked]
    exact command_of_no_effect acc (if_pos ((fenceClear_refusal_iff (s := s.quiet)).2 blocked))
  · rw [if_neg blocked]
    exact command_of_effect acc (if_neg (mt (fenceClear_refusal_iff (s := s.quiet)).1 blocked))

end Sys2Proof.Proofs.Fences
end
